-- ==== Sys2Proof/Word.lean ====
section
/-! DEFINITION. The word types of the block: spec/00_scope.md R6, R7. -/

namespace Sys2Proof

/-- A byte: 8 bits, unsigned (R6, `BYTE`); an identifier is one (R6, `ID_W`). -/
abbrev Byte := BitVec 8

/-- A 16-bit value: a payload length or a firmware version (R6 `LEN_W`, R163). -/
abbrev Half := BitVec 16

/-- An operation word: 11 bits (R81). -/
abbrev OpWord := BitVec 11

/-- A frame's header word H: 32 bits (R74). -/
abbrev Header := BitVec 32

end Sys2Proof
end

