-- ==== Sys2Proof/Config.lean ====
section
/-! DEFINITION. The fixed constants of the block, each literal written once: spec/00_scope.md R6,
spec/93_implementation_defined.md I8. `BYTE`, `ID_W` and
`LEN_W` are the widths of the types `Byte` and `Half` (Word.lean). The one open parameter of the spec, `N_INST`, is the number of blocks of a
`System` (Machine/System.lean). -/

namespace Sys2Proof.Config

/-- `SOF`, the start sentinel. -/
def SOF : Byte := 0x7E
/-- `EOF`, the end sentinel. -/
def EOF : Byte := 0xE7
/-- `HDR_LEN`: SOF, identifier, length low, length high. -/
def HDR_LEN : Nat := 4
/-- `MAX_PAYLOAD`, the largest payload in bytes. -/
def MAX_PAYLOAD : Nat := 65535
/-- `MAX_FRAME = HDR_LEN + MAX_PAYLOAD + 1`. -/
def MAX_FRAME : Nat := HDR_LEN + MAX_PAYLOAD + 1
/-- `MIN_FRAME`: the frame with an empty payload. -/
def MIN_FRAME : Nat := HDR_LEN + 1
/-- `RXBUF_CAP`: the reassembly buffer never holds more (R55). -/
def RXBUF_CAP : Nat := MAX_FRAME
/-- `ID_PARAM`: parameter request and parameter response. -/
def ID_PARAM : Byte := 3
/-- `ID_CONFIG`: configure parameters. -/
def ID_CONFIG : Byte := 4
/-- `ID_RENDER`: render data. -/
def ID_RENDER : Byte := 6
/-- The payload size of a parameter request (I8; R162). -/
def PARAM_REQ_LEN : Nat := 2
/-- The payload size of a parameter response and of a configure packet (I8; R163, R165). -/
def PARAM_LEN : Nat := 5
/-- `MAX_UNIVERSE`: the most channel values a render frame carries. -/
def MAX_UNIVERSE : Nat := 65534

end Sys2Proof.Config
end

