-- ==== Sys2Proof/Syntax.lean ====
section
/-! DEFINITION. The instructions, one constructor for each row of spec/opcode_table.json; the forms in which the
owner presents one (an operation word, bytes on the receive wire, a script line); packets. -/

namespace Sys2Proof

/-- A packet: an identifier and a payload (spec/00_scope.md, glossary; spec/10_state.md R27). -/
structure Packet where
  id : Byte
  payload : List Byte
deriving DecidableEq, Repr

/-- The rows of spec/opcode_table.json. -/
inductive Instr where
  /-- `RX_BYTE d` (R110). -/
  | rxByte (d : Byte)
  /-- `TX_FRAME id, P` (R141). -/
  | txFrame (id : Byte) (payload : List Byte)
  /-- `STATUS_RD` (R191). -/
  | statusRd
  /-- `RESET` (R190). -/
  | reset
  /-- `RX_CHUNK c` (R114). -/
  | rxChunk (chunk : List Byte)
  /-- `PARAM_REQ` (R162). -/
  | paramReq
  /-- `CONFIGURE fw, brk, mab, rate` (R165). -/
  | configure (fw : Half) (brk mab rate : Byte)
  /-- `RENDER v, sc` (R166). -/
  | render (values : List Byte) (sc : Byte)
  /-- Row `FRAME`: a frame of any identifier on the receive wire (R71, R84, R100). `tail` is the byte at offset
  4 + L, where the end sentinel belongs (log 3). -/
  | frame (id : Byte) (payload : List Byte) (tail : Byte)
  /-- Row `FRAME_PARAM_REQ`: header `7E 03 02 00` on the receive wire (R84, R162); the two payload bytes are what
  the wire carries, `00 00` in the frame PARAM_REQ builds (log 6). -/
  | frameParamReq (p0 p1 : Byte) (tail : Byte)
  /-- Row `FRAME_PARAM_RESP`: header `7E 03 05 00` on the receive wire (R84, R163). -/
  | frameParamResp (fw : Half) (brk mab rate : Byte) (tail : Byte)
  /-- Row `FRAME_CONFIG`: header `7E 04 05 00` on the receive wire (R84, R165). -/
  | frameConfig (fw : Half) (brk mab rate : Byte) (tail : Byte)
  /-- Row `FRAME_RENDER`: header `7E 06 xx xx` with L of at least 1 on the receive wire (R84, R166). Payload byte 0 is
  the start code and the rest are channel values. A frame of identifier 6 with an empty payload is a `FRAME`. -/
  | frameRender (payload : List Byte) (tail : Byte)
deriving DecidableEq, Repr

/-- One operation as the owner presents it at the ports (spec/30_encoding.md R80 to R84; log 1). -/
inductive Request where
  /-- An OPWORD (R81), with the payload operand that travels beside it (`[]` where there is none). -/
  | word (w : OpWord) (payload : List Byte)
  /-- Bytes on the receive wire, oldest first. -/
  | wire (bytes : List Byte)
  /-- A line of the operation script (R83). -/
  | line (text : List Char)
deriving DecidableEq, Repr

/-- Why a request has no instruction. Every constructor is raised by the decoder, and is safe: the model does not
step. -/
inductive Reject where
  /-- OP is `000`, `101`, `110` or `111` (R81). -/
  | reservedOp (w : OpWord)
  /-- STATUS_RD or RESET with a DATA field other than 0 (R81). -/
  | reservedData (w : OpWord)
  /-- A payload stands beside a word that takes none: R81 gives a payload to TX_FRAME alone (DESIGN CHOICE, log 7). -/
  | strayPayload (w : OpWord)
  /-- The text is no operation line of R83 (log 8). -/
  | malformedLine (text : List Char)
deriving DecidableEq, Repr

/-- A row's pattern in the opcode table: a word fits when its bits under the mask are the row's (R74). -/
structure Row (n : Nat) where
  mask : BitVec n
  value : BitVec n
deriving DecidableEq, Repr

end Sys2Proof
end

