-- ==== Sys2Proof/Machine/Operands.lean ====
section
/-! DEFINITION. The operand forms of the spec: byte sequences and their fields, the 16-bit little-endian integers, the
header word, the layout of a frame and the payloads of the known packets (spec/00_scope.md R7, R8,
spec/30_encoding.md R71 to R74, spec/42_packets.md). -/

namespace Sys2Proof.Machine

/-- `B[i]` (R7), which the rules use for `i < |B|` only. -/
def byteAt (B : List Byte) (i : Nat) : Byte := B.getD i 0

/-- `B[i..j)` (R7). -/
def slice (B : List Byte) (i j : Nat) : List Byte := (B.drop i).take (j - i)

/-- `lo8(n) = n[7:0]` (R7). -/
def lo8 (n : Nat) : Byte := BitVec.ofNat 8 n

/-- `hi8(n) = n[15:8]` (R7). -/
def hi8 (n : Nat) : Byte := BitVec.ofNat 8 (n >>> 8)

/-- `u16le(lo, hi) = zext_16(lo) | (zext_16(hi) << 8)` (R7). -/
def u16le (lo hi : Byte) : Half := lo.zeroExtend 16 ||| (hi.zeroExtend 16 <<< 8)

/-- `MemRead(a, n)` of a buffer: `sum_{i<n} B[a+i] << (8*i)` (R8). -/
def memRead (B : List Byte) (a n : Nat) : Nat :=
  ((List.range n).map fun i => (byteAt B (a + i)).toNat <<< (8 * i)).sum

/-- The header word: the first four bytes of a frame, the first most significant (R74). -/
def headerWord (b0 b1 b2 b3 : Byte) : Header :=
  b0.zeroExtend 32 <<< 24 ||| b1.zeroExtend 32 <<< 16 ||| b2.zeroExtend 32 <<< 8 ||| b3.zeroExtend 32

/-- The wire layout of R71 with `tail` in the place of the end sentinel. -/
def frameBytes (id : Byte) (payload : List Byte) (tail : Byte) : List Byte :=
  [Config.SOF, id, lo8 payload.length, hi8 payload.length] ++ payload ++ [tail]

/-- The payload of a parameter request: two zero bytes (R162). -/
def paramReqPayload : List Byte := List.replicate Config.PARAM_REQ_LEN 0x00

/-- The four parameter fields in their fixed order, the firmware version low byte first (R161, R163, R165). -/
def paramPayload (fw : Half) (brk mab rate : Byte) : List Byte :=
  [lo8 fw.toNat, hi8 fw.toNat, brk, mab, rate]

/-- The payload of a render packet: the start code, then the channel values (R166). -/
def renderPayload (values : List Byte) (sc : Byte) : List Byte := [sc] ++ values

end Sys2Proof.Machine
end

