-- ==== Sys2Proof/WellFormed.lean ====
section
/-! DEFINITION. Which instruction terms the decoder can answer. An operation takes every operand (a TX_FRAME or RENDER
that is too long is well formed: it is refused by its response, spec/60_exceptions.md R206, not as a term). A term of a
frame row must be a frame that exists (its payload fits the 16-bit length field, R72) and must stand under the most
specific row its header matches (R84; log 5): a frame of identifier 6 stands under the render row "with L of at least 1"
and under `FRAME` with an empty payload. -/

namespace Sys2Proof

/-- The header of the frame `(id, payload)` matches a row more specific than `FRAME` (R84). -/
def namedHeader (id : Byte) (payload : List Byte) : Bool :=
  (id == Config.ID_PARAM && (payload.length == Config.PARAM_REQ_LEN || payload.length == Config.PARAM_LEN))
    || (id == Config.ID_CONFIG && payload.length == Config.PARAM_LEN)
    || (id == Config.ID_RENDER && !payload.isEmpty)

/-- The payload fits the length field (R72). -/
def payloadFits (payload : List Byte) : Bool :=
  decide (payload.length ≤ Config.MAX_PAYLOAD)

/-- The well-formed instruction terms. -/
def WellFormed : Instr → Bool
  | .rxByte _ => true
  | .txFrame _ _ => true
  | .statusRd => true
  | .reset => true
  | .rxChunk _ => true
  | .paramReq => true
  | .configure _ _ _ _ => true
  | .render _ _ => true
  | .frame id payload _ => payloadFits payload && !namedHeader id payload
  | .frameParamReq _ _ _ => true
  | .frameParamResp _ _ _ _ _ => true
  | .frameConfig _ _ _ _ _ => true
  | .frameRender payload _ => payloadFits payload && !payload.isEmpty

end Sys2Proof
end

