-- ==== Sys2Proof/Decode.lean ====
section
/-! DEFINITION. The decoder, total on every request and rejecting by name, then the encoder, both from the encoding
tables of spec/30_encoding.md (R74, R80 to R84) and spec/opcode_table.json. Three encodings exist: the operation word,
the frame on the receive wire and the script line. A pseudo-operation has no bits of its own (R82); its concrete form is
the script line (R83). -/

namespace Sys2Proof

/-! ### The rows of the opcode table -/

/-- A word fits a row (R74): `w & mask = match`. -/
def Row.fits {n : Nat} (r : Row n) (w : BitVec n) : Bool := w &&& r.mask == r.value

/-- RX_BYTE: `001dddddddd`. -/
def rxByteRow : Row 11 := ⟨0x700, 0x100⟩
/-- TX_FRAME: `010iiiiiiii`. -/
def txFrameRow : Row 11 := ⟨0x700, 0x200⟩
/-- STATUS_RD: `01100000000`. -/
def statusRdRow : Row 11 := ⟨0x7FF, 0x300⟩
/-- RESET: `10000000000`. -/
def resetRow : Row 11 := ⟨0x7FF, 0x400⟩
/-- The row of one header only: identifier and payload length both given. -/
def exactHeaderRow (id : Byte) (L : Nat) : Row 32 :=
  ⟨Machine.headerWord 0xFF 0xFF 0xFF 0xFF, Machine.headerWord Config.SOF id (Machine.lo8 L) (Machine.hi8 L)⟩

/-- FRAME: any identifier. -/
def frameRow : Row 32 := ⟨Machine.headerWord 0xFF 0 0 0, Machine.headerWord Config.SOF 0 0 0⟩
/-- FRAME_PARAM_REQ: `7E 03 02 00`. -/
def frameParamReqRow : Row 32 := exactHeaderRow Config.ID_PARAM Config.PARAM_REQ_LEN
/-- FRAME_PARAM_RESP: `7E 03 05 00`. -/
def frameParamRespRow : Row 32 := exactHeaderRow Config.ID_PARAM Config.PARAM_LEN
/-- FRAME_CONFIG: `7E 04 05 00`. -/
def frameConfigRow : Row 32 := exactHeaderRow Config.ID_CONFIG Config.PARAM_LEN
/-- FRAME_RENDER: `7E 06 xx xx`. That L is at least 1 (R84) no mask can say; `decodeFrame` tests it. -/
def frameRenderRow : Row 32 :=
  ⟨Machine.headerWord 0xFF 0xFF 0 0, Machine.headerWord Config.SOF Config.ID_RENDER 0 0⟩

/-! ### Operation words (R81) -/

/-- OP, bits 10:8. -/
def opField (w : OpWord) : BitVec 3 := w.extractLsb' 8 3

/-- DATA, bits 7:0. -/
def dataField (w : OpWord) : Byte := w.extractLsb' 0 8

/-- An instruction that takes no payload beside its word (log 7). -/
def withoutPayload (w : OpWord) (payload : List Byte) (i : Instr) : Except Reject Instr :=
  if payload = [] then .ok i else .error (.strayPayload w)

/-- The instruction of an operation word and the payload beside it (R80, R81). -/
def decodeWord (w : OpWord) (payload : List Byte) : Except Reject Instr :=
  if rxByteRow.fits w then withoutPayload w payload (.rxByte (dataField w))
  else if txFrameRow.fits w then .ok (.txFrame (dataField w) payload)
  else if statusRdRow.fits w then withoutPayload w payload .statusRd
  else if resetRow.fits w then withoutPayload w payload .reset
  else if opField w = 3 ∨ opField w = 4 then .error (.reservedData w)
  else .error (.reservedOp w)

/-! ### Frames on the receive wire (R71, R74, R84) -/

/-- The bytes after a header, cut into the payload of `L` bytes and the one byte after it: what a whole frame holds
there (R71). -/
def splitBody (L : Nat) (body : List Byte) : Option (List Byte × Byte) :=
  match body.drop L with
  | [tail] => some (body.take L, tail)
  | _ => none

/-- The frame row a header and the bytes after it stand under, the more specific rows first (log 5); the render row asks
for L of at least 1 (R84). `none`: no row, or the bytes are not exactly one frame. -/
def decodeFrame (b0 b1 b2 b3 : Byte) (body : List Byte) : Option Instr :=
  let H := Machine.headerWord b0 b1 b2 b3
  let L := (Machine.u16le b2 b3).toNat
  if frameParamReqRow.fits H then
    match body with
    | [p0, p1, tail] => some (.frameParamReq p0 p1 tail)
    | _ => none
  else if frameParamRespRow.fits H then
    match body with
    | [f0, f1, brk, mab, rate, tail] => some (.frameParamResp (Machine.u16le f0 f1) brk mab rate tail)
    | _ => none
  else if frameConfigRow.fits H then
    match body with
    | [f0, f1, brk, mab, rate, tail] => some (.frameConfig (Machine.u16le f0 f1) brk mab rate tail)
    | _ => none
  else if frameRenderRow.fits H ∧ 1 ≤ L then
    (splitBody L body).map fun (payload, tail) => .frameRender payload tail
  else if frameRow.fits H then
    (splitBody L body).map fun (payload, tail) => .frame b1 payload tail
  else none

/-- The instruction of bytes on the receive wire: exactly one frame is its row's instruction; any other bytes are
received all the same, since a partial frame is not illegal (R79) and a header that matches no row means the
FramingError of R77 (R84): they are an RX_CHUNK (log 4). -/
def decodeWire (bytes : List Byte) : Instr :=
  match bytes with
  | b0 :: b1 :: b2 :: b3 :: body => (decodeFrame b0 b1 b2 b3 body).getD (.rxChunk bytes)
  | _ => .rxChunk bytes

/-! ### Script lines (R83; what R83 leaves open is log 8) -/

/-- The lexical pieces of a line. -/
inductive Token where
  | text (cs : List Char)
  | comma
  | openBracket
  | closeBracket
deriving DecidableEq, Repr

/-- Put the piece collected so far before the tokens that follow. -/
def flushPiece (piece : List Char) (rest : List Token) : List Token :=
  if piece = [] then rest else .text piece :: rest

/-- The tokens of a line whose current piece is `piece`; a semicolon starts a comment (R83). -/
def lexFrom (piece : List Char) : List Char → List Token
  | [] => flushPiece piece []
  | c :: cs =>
    if c = ';' then flushPiece piece []
    else if c = ' ' then flushPiece piece (lexFrom [] cs)
    else if c = ',' then flushPiece piece (.comma :: lexFrom [] cs)
    else if c = '[' then flushPiece piece (.openBracket :: lexFrom [] cs)
    else if c = ']' then flushPiece piece (.closeBracket :: lexFrom [] cs)
    else lexFrom (piece ++ [c]) cs

/-- A digit's value, in either case. -/
def digitValue (c : Char) : Option Nat :=
  if '0' ≤ c ∧ c ≤ '9' then some (c.toNat - 48)
  else if 'A' ≤ c ∧ c ≤ 'F' then some (c.toNat - 55)
  else if 'a' ≤ c ∧ c ≤ 'f' then some (c.toNat - 87)
  else none

/-- The number the digits spell after the digits already read gave `n`. -/
def numeralFrom (base n : Nat) : List Char → Option Nat
  | [] => some n
  | c :: cs =>
    match digitValue c with
    | some v => if v < base then numeralFrom base (base * n + v) cs else none
    | none => none

/-- The number a nonempty run of digits spells. -/
def numeral (base : Nat) (cs : List Char) : Option Nat :=
  if cs = [] then none else numeralFrom base 0 cs

/-- The digits behind a `0x`, if the piece has one. -/
def hexDigits? : List Char → Option (List Char)
  | '0' :: 'x' :: ds => some ds
  | _ => none

/-- A number that fits `n` bits. -/
def sized (n : Nat) (v : Nat) : Option (BitVec n) :=
  if v < 2 ^ n then some (BitVec.ofNat n v) else none

/-- A byte operand: two hex digits, or the `0x` form (R83); one digit alone is read as a hex digit. -/
def byteOperand (cs : List Char) : Option Byte :=
  match hexDigits? cs with
  | some ds => (numeral 16 ds).bind (sized 8)
  | none => if cs.length ≤ 2 then (numeral 16 cs).bind (sized 8) else none

/-- A number of CONFIGURE: decimal unless written with `0x` (R83), within its field's width. -/
def numberOperand (n : Nat) (cs : List Char) : Option (BitVec n) :=
  match hexDigits? cs with
  | some ds => (numeral 16 ds).bind (sized n)
  | none => (numeral 10 cs).bind (sized n)

/-- An element inside brackets: a byte, or `x^n` for n copies of byte x (R83). -/
def byteRun (cs : List Char) : Option (List Byte) :=
  match cs.dropWhile (· ≠ '^') with
  | [] => (byteOperand cs).map fun b => [b]
  | _ :: count =>
    (byteOperand (cs.takeWhile (· ≠ '^'))).bind fun b => (numeral 10 count).map fun n => List.replicate n b

/-- The bytes up to the closing bracket, and the tokens after it. -/
def bracketBody : List Token → Option (List Byte × List Token)
  | .closeBracket :: ts => some ([], ts)
  | .text cs :: ts =>
    (byteRun cs).bind fun bs => (bracketBody ts).map fun (more, rest) => (bs ++ more, rest)
  | _ => none

/-- A bracketed byte sequence that ends the line. -/
def bracketed : List Token → Option (List Byte)
  | .openBracket :: ts =>
    match bracketBody ts with
    | some (bs, []) => some bs
    | _ => none
  | _ => none

/-- The bytes of an RX_CHUNK line, without brackets (R83). -/
def chunkBytes : List Token → Option (List Byte)
  | [] => some []
  | .text cs :: ts => (byteOperand cs).bind fun b => (chunkBytes ts).map fun bs => b :: bs
  | _ => none

def kwRxByte : List Char := ['R', 'X', '_', 'B', 'Y', 'T', 'E']
def kwTxFrame : List Char := ['T', 'X', '_', 'F', 'R', 'A', 'M', 'E']
def kwStatusRd : List Char := ['S', 'T', 'A', 'T', 'U', 'S', '_', 'R', 'D']
def kwReset : List Char := ['R', 'E', 'S', 'E', 'T']
def kwRxChunk : List Char := ['R', 'X', '_', 'C', 'H', 'U', 'N', 'K']
def kwParamReq : List Char := ['P', 'A', 'R', 'A', 'M', '_', 'R', 'E', 'Q']
def kwConfigure : List Char := ['C', 'O', 'N', 'F', 'I', 'G', 'U', 'R', 'E']
def kwRender : List Char := ['R', 'E', 'N', 'D', 'E', 'R']

/-- `RX_BYTE 7E`. -/
def parseRxByte : List Token → Option Instr
  | [.text b] => (byteOperand b).map .rxByte
  | _ => none

/-- `TX_FRAME 0x10, [AA BB]`. -/
def parseTxFrame : List Token → Option Instr
  | .text b :: .comma :: ts => (byteOperand b).bind fun id => (bracketed ts).map fun P => .txFrame id P
  | _ => none

/-- `RX_CHUNK 7E 03 02`; the empty chunk also as `RX_CHUNK []`. -/
def parseRxChunk : List Token → Option Instr
  | [.openBracket, .closeBracket] => some (.rxChunk [])
  | ts => (chunkBytes ts).map .rxChunk

/-- `CONFIGURE 0x1234, 9, 1, 40`. -/
def parseConfigure : List Token → Option Instr
  | [.text fw, .comma, .text brk, .comma, .text mab, .comma, .text rate] =>
    (numberOperand 16 fw).bind fun fw => (numberOperand 8 brk).bind fun brk =>
      (numberOperand 8 mab).bind fun mab => (numberOperand 8 rate).map fun rate => .configure fw brk mab rate
  | _ => none

/-- `RENDER [FF 80], 0xCC`; the start code defaults to 0 (R82). -/
def parseRender : List Token → Option Instr
  | .openBracket :: ts =>
    match bracketBody ts with
    | some (v, []) => some (.render v 0)
    | some (v, [.comma, .text sc]) => (byteOperand sc).map fun sc => .render v sc
    | _ => none
  | _ => none

/-- The operation of a line's tokens: the mnemonic, then its operands (R83). -/
def parseTokens : List Token → Option Instr
  | .text m :: ts =>
    if m = kwRxByte then parseRxByte ts
    else if m = kwTxFrame then parseTxFrame ts
    else if m = kwStatusRd then (if ts = [] then some .statusRd else none)
    else if m = kwReset then (if ts = [] then some .reset else none)
    else if m = kwRxChunk then parseRxChunk ts
    else if m = kwParamReq then (if ts = [] then some .paramReq else none)
    else if m = kwConfigure then parseConfigure ts
    else if m = kwRender then parseRender ts
    else none
  | _ => none

/-- The instruction of a script line. -/
def decodeLine (text : List Char) : Except Reject Instr :=
  match parseTokens (lexFrom [] text) with
  | some i => .ok i
  | none => .error (.malformedLine text)

/-! ### The decoder -/

/-- The instruction a request stands for, or why it stands for none. -/
def decode : Request → Except Reject Instr
  | .word w payload => decodeWord w payload
  | .wire bytes => .ok (decodeWire bytes)
  | .line text => decodeLine text

/-- Bytes laid out from an opcode-table word of a frame row: the header word H (R74), then the payload and the byte
after it, which have no bits in the table, as zeros. -/
def tableFrameBytes (w : Nat) : List Byte :=
  let H := BitVec.ofNat 32 w
  let b2 := H.extractLsb' 8 8
  let b3 := H.extractLsb' 0 8
  [H.extractLsb' 24 8, H.extractLsb' 16 8, b2, b3] ++ List.replicate ((Machine.u16le b2 b3).toNat + 1) 0

/-- The request an opcode-table word stands for: an OPWORD row has 11 bits, held in two bytes, and a frame row 32
(log 14). -/
def tableRequest (nbits w : Nat) : Request :=
  if nbits ≤ 16 then .word (BitVec.ofNat 11 w) [] else .wire (tableFrameBytes w)

/-- The instruction the decoder reads from a word of the opcode table. -/
def decodeTableWord (nbits w : Nat) : Option Instr := (decode (tableRequest nbits w)).toOption

/-! ### The expansion of pseudo-operations (R82) -/

/-- The operations of R80 an instruction stands for: a pseudo-operation is its expansion (R82), a frame row the bytes of
the frame arriving one by one (log 3), an operation itself. -/
def expand : Instr → List Instr
  | .rxByte d => [.rxByte d]
  | .txFrame id P => [.txFrame id P]
  | .statusRd => [.statusRd]
  | .reset => [.reset]
  | .rxChunk c => c.map .rxByte
  | .paramReq => [.txFrame Config.ID_PARAM Machine.paramReqPayload]
  | .configure fw brk mab rate => [.txFrame Config.ID_CONFIG (Machine.paramPayload fw brk mab rate)]
  | .render v sc => [.txFrame Config.ID_RENDER (Machine.renderPayload v sc)]
  | .frame id P tail => (Machine.frameBytes id P tail).map .rxByte
  | .frameParamReq p0 p1 tail => (Machine.frameBytes Config.ID_PARAM [p0, p1] tail).map .rxByte
  | .frameParamResp fw brk mab rate tail =>
    (Machine.frameBytes Config.ID_PARAM (Machine.paramPayload fw brk mab rate) tail).map .rxByte
  | .frameConfig fw brk mab rate tail =>
    (Machine.frameBytes Config.ID_CONFIG (Machine.paramPayload fw brk mab rate) tail).map .rxByte
  | .frameRender P tail => (Machine.frameBytes Config.ID_RENDER P tail).map .rxByte

/-! ### The encoder -/

/-- An OPWORD from OP and DATA (R81). -/
def opWord (op : BitVec 3) (data : Byte) : OpWord := op ++ data

def hexDigit (n : Nat) : Char := Char.ofNat (if n < 10 then 48 + n else 55 + n)

/-- Two hex digits. -/
def byteHex (b : Byte) : List Char := [hexDigit (b.toNat / 16), hexDigit (b.toNat % 16)]

/-- Four hex digits. -/
def halfHex (h : Half) : List Char := byteHex (Machine.hi8 h.toNat) ++ byteHex (Machine.lo8 h.toNat)

/-- Each byte behind a space. -/
def spacedBytes (bs : List Byte) : List Char := bs.flatMap fun b => ' ' :: byteHex b

/-- `[AA BB CC]`. -/
def bracketText (bs : List Byte) : List Char := '[' :: ((spacedBytes bs).drop 1 ++ [']'])

/-- `, 0xAA`. -/
def nextByteText (b : Byte) : List Char := [',', ' ', '0', 'x'] ++ byteHex b

/-- The line of a RX_CHUNK (R83). -/
def chunkLine (c : List Byte) : List Char := kwRxChunk ++ spacedBytes c

/-- The line of a CONFIGURE (R83). -/
def configureLine (fw : Half) (brk mab rate : Byte) : List Char :=
  kwConfigure ++ [' ', '0', 'x'] ++ halfHex fw ++ nextByteText brk ++ nextByteText mab ++ nextByteText rate

/-- The line of a RENDER (R83). -/
def renderLine (v : List Byte) (sc : Byte) : List Char := kwRender ++ [' '] ++ bracketText v ++ nextByteText sc

/-- The request that presents an instruction: an operation as its OPWORD, a pseudo-operation as its line, a frame row as
the frame's bytes. -/
def encode : Instr → Request
  | .rxByte d => .word (opWord 1 d) []
  | .txFrame id P => .word (opWord 2 id) P
  | .statusRd => .word (opWord 3 0) []
  | .reset => .word (opWord 4 0) []
  | .rxChunk c => .line (chunkLine c)
  | .paramReq => .line kwParamReq
  | .configure fw brk mab rate => .line (configureLine fw brk mab rate)
  | .render v sc => .line (renderLine v sc)
  | .frame id P tail => .wire (Machine.frameBytes id P tail)
  | .frameParamReq p0 p1 tail => .wire (Machine.frameBytes Config.ID_PARAM [p0, p1] tail)
  | .frameParamResp fw brk mab rate tail =>
    .wire (Machine.frameBytes Config.ID_PARAM (Machine.paramPayload fw brk mab rate) tail)
  | .frameConfig fw brk mab rate tail =>
    .wire (Machine.frameBytes Config.ID_CONFIG (Machine.paramPayload fw brk mab rate) tail)
  | .frameRender P tail => .wire (Machine.frameBytes Config.ID_RENDER P tail)

end Sys2Proof
end

