-- ==== Sys2Proof/Machine/Codec.lean ====
section
/-! DEFINITION. The frame codec: the pure decode and encode functions (spec/40_deframer.md R100,
spec/41_framer.md R140). They are called `deframe` and `enframe` here, since `decode` and `encode` name the
instruction decoder and encoder. -/

namespace Sys2Proof.Machine

/-- Which sentinel check failed (spec/10_state.md R24, spec/60_exceptions.md R200). -/
inductive FramingCause where
  | startSentinel
  | endSentinel
deriving DecidableEq, Repr

/-- The three results of decode (R100). -/
inductive DeframeResult where
  /-- "not an error — control signal meaning 'wait for more bytes'" (R201). -/
  | incomplete
  /-- The packet and the bytes consumed. -/
  | ok (p : Packet) (n : Nat)
  /-- A FramingError. -/
  | err (k : FramingCause)
deriving DecidableEq, Repr

/-- The two results of encode (R140). -/
inductive EnframeResult where
  | ok (bytes : List Byte)
  | payloadTooLarge
deriving DecidableEq, Repr

/-- `decode(B)`, its tests in the order of R100 and R208. -/
def deframe (B : List Byte) : DeframeResult :=
  if B.length < Config.HDR_LEN then .incomplete
  else if byteAt B 0 ≠ Config.SOF then .err .startSentinel
  else if B.length < Config.HDR_LEN + memRead B 2 2 + 1 then .incomplete
  else if byteAt B (Config.HDR_LEN + memRead B 2 2) ≠ Config.EOF then .err .endSentinel
  else .ok ⟨byteAt B 1, slice B Config.HDR_LEN (Config.HDR_LEN + memRead B 2 2)⟩ (Config.MIN_FRAME + memRead B 2 2)

/-- `encode(id, P)`: never truncated (R140, R142). -/
def enframe (id : Byte) (payload : List Byte) : EnframeResult :=
  if payload.length > Config.MAX_PAYLOAD then .payloadTooLarge
  else .ok (frameBytes id payload Config.EOF)

end Sys2Proof.Machine
end

