-- ==== Sys2Proof/Machine/State.lean ====
section
/-! DEFINITION. The block's state, all of it (spec/10_state.md R20 to R32), the reasons a step can stop, and the state
at power-on. -/

namespace Sys2Proof.Machine

/-- What an operation answers to the owner in its own step (R29). RX_BYTE and RESET answer nothing. -/
inductive Response where
  /-- `TXRESULT`, the answer of TX_FRAME: 0 = OK, 1 = PAYLOAD_TOO_LARGE. -/
  | txResult (r : BitVec 1)
  /-- The STATUS word, the answer of STATUS_RD. -/
  | status (w : BitVec 8)
deriving DecidableEq, Repr

/-- The state of one block. -/
structure State where
  /-- `S.rxbuf`, the reassembly buffer, the oldest byte first (R22). -/
  rxbuf : List Byte
  /-- `S.fault`, the framing-fault flag (R23). -/
  fault : BitVec 1
  /-- `S.cause`: 0 none, 1 START, 2 END, 3 reserved (R24). -/
  cause : BitVec 2
  /-- `pkt_out`: the packets emitted, the oldest first; append-only (R27). -/
  pktOut : List Packet
  /-- `tx_out`: the bytes transmitted, the oldest first; append-only (R28). -/
  txOut : List Byte
  /-- The responses given, the oldest first: the third output stream of R20 (R29; log 9). No operation reads it. -/
  responses : List Response
  /-- The model's own field: the operations the owner has presented and the block has not yet taken, the oldest first
  (R21, R80; log 1). No operation reads or writes it. -/
  requests : List Request
deriving DecidableEq, Repr

/-- Nothing stops the block: a FramingError is a state the block enters (R203) and PayloadTooLarge a response (R206), so
both are next states and no reason stands here (log 10). -/
inductive Fault where
deriving DecidableEq, Repr

/-- Why a step has no next state. -/
inductive Refusal where
  /-- Raised by exec's arm of an instruction that has no meaning yet; safe. No arm of this model raises it. -/
  | notModelled (mnemonic : String)
  /-- Raised by `step` when the oldest request stands for no instruction: a reserved word, which a model "refuses ...
  and does not step" (R81), a payload beside a word that takes none, or a line that is no operation; safe. -/
  | notAnOperation (why : Reject)
deriving DecidableEq, Repr

/-- Power-on (R31, R240): empty buffer, no fault, no output. -/
def State.reset : State where
  rxbuf := []
  fault := 0
  cause := 0
  pktOut := []
  txOut := []
  responses := []
  requests := []

end Sys2Proof.Machine
end

