-- ==== Sys2Proof/Machine/Flags.lean ====
section
/-! DEFINITION. The flags and codes: the cause codes of R24, the TXRESULT codes of R29, the STATUS word of R26. -/

namespace Sys2Proof.Machine

/-- `S.cause` of a FramingError: 1 = START, 2 = END (R24). -/
def FramingCause.code : FramingCause → BitVec 2
  | .startSentinel => 1
  | .endSentinel => 2

/-- `TXRESULT = 0`: the frame was sent (R29). -/
def txResultOk : BitVec 1 := 0

/-- `TXRESULT = 1`: PAYLOAD_TOO_LARGE, nothing was sent (R29). -/
def txResultTooLarge : BitVec 1 := 1

/-- `STATUS = zext_8(S.cause) << 1 | zext_8(S.fault)` (R26): bit 0 FAULT, bits 2:1 CAUSE, bits 7:3 zero. -/
def statusWord (s : State) : BitVec 8 := s.cause.zeroExtend 8 <<< 1 ||| s.fault.zeroExtend 8

end Sys2Proof.Machine
end

