-- ==== Sys2Proof/Machine/Ops.lean ====
section
/-! DEFINITION. The named operations over the state: the pseudocode primitives of spec/00_scope.md R8, taking a
FramingError and leaving FAULT, and the two paths the meanings share: receiving bytes (spec/40_deframer.md R110) and
transmitting a frame (spec/41_framer.md R141). -/

namespace Sys2Proof.Machine

/-! ### Primitives (R8) -/

/-- `BufAppend(b)`. -/
def bufAppend (b : Byte) (s : State) : State := { s with rxbuf := s.rxbuf ++ [b] }

/-- `BufConsume(n)`. -/
def bufConsume (n : Nat) (s : State) : State := { s with rxbuf := s.rxbuf.drop n }

/-- `emit_pkt(id, payload)`. -/
def emitPkt (p : Packet) (s : State) : State := { s with pktOut := s.pktOut ++ [p] }

/-- `emit_tx(bytes)`: the bytes of one frame, contiguous (R28). -/
def emitTx (bytes : List Byte) (s : State) : State := { s with txOut := s.txOut ++ bytes }

/-- `respond(v)` (R7, R29). -/
def respond (v : Response) (s : State) : State := { s with responses := s.responses ++ [v] }

/-! ### The exception and the way out -/

/-- `raise FramingError(k)`, entry into FAULT (R203): the buffer keeps its contents, nothing else is saved and control
goes nowhere. -/
def raiseFramingError (k : FramingCause) (s : State) : State := { s with fault := 1, cause := k.code }

/-- The way out of FAULT: no return exists, only RESET (R209), which empties the buffer and clears both flags; output
already given stays (R190). -/
def clearReceivePath (s : State) : State := { s with rxbuf := [], fault := 0, cause := 0 }

/-- `raise PayloadTooLarge()`: no byte is sent and no state changes; the response is `TXRESULT = 1` (R206). -/
def raisePayloadTooLarge (s : State) : State := respond (.txResult txResultTooLarge) s

/-! ### The receive path (R110) -/

/-- `drain()`, its loop run at most `fuel` times. Each pass that goes on consumes at least five bytes, so `drain`'s fuel
is never spent before the loop ends (`drain_eq` of Laws/Receive.lean). -/
def drainLoop : Nat → State → State
  | 0, s => s
  | fuel + 1, s =>
    match deframe s.rxbuf with
    | .incomplete => s
    | .ok p n => drainLoop fuel (bufConsume n (emitPkt p s))
    | .err k => raiseFramingError k s

/-- `drain()`: emit every complete frame at the front of the buffer, in order; stop at an incomplete one or at a
FramingError (R110). -/
def drain (s : State) : State := drainLoop (s.rxbuf.length + 1) s

/-- Receive one byte: dropped in FAULT (R112), else appended and drained (R110). -/
def receiveByte (d : Byte) (s : State) : State :=
  if s.fault = 1 then s else drain (bufAppend d s)

/-- Receive bytes one after the other (R114). -/
def receive (bytes : List Byte) (s : State) : State := bytes.foldl (fun t d => receiveByte d t) s

/-! ### The transmit path (R141) -/

/-- Frame one packet and transmit it, or refuse it. -/
def transmit (id : Byte) (payload : List Byte) (s : State) : State :=
  match enframe id payload with
  | .payloadTooLarge => raisePayloadTooLarge s
  | .ok bytes => respond (.txResult txResultOk) (emitTx bytes s)

end Sys2Proof.Machine
end

