-- ==== Sys2Proof/Machine/Control.lean ====
section
/-! DEFINITION. The control operations: RESET and STATUS_RD (spec/43_control.md). -/

namespace Sys2Proof.Machine

/-- `RESET`: allowed in every state, the only way out of FAULT (R190). -/
def execReset (s : State) : Host.Outcome State Fault Refusal := .next (clearReceivePath s)

/-- `STATUS_RD`: answer the STATUS word; reading clears nothing (R191, R57). -/
def execStatusRd (s : State) : Host.Outcome State Fault Refusal := .next (respond (.status (statusWord s)) s)

end Sys2Proof.Machine
end

