-- ==== Sys2Proof/Machine/Frames.lean ====
section
/-! DEFINITION. The frame rows: a frame on the receive wire arrives at `rx_in` byte by byte, and "the deframer decodes
every frame with the same rule, whatever the identifier" (spec/30_encoding.md R84; R76, R100, R167; log 3). The last byte
is what stands where the end sentinel belongs: the frame is emitted if it is 0xE7, else it is a FramingError(END). -/

namespace Sys2Proof.Machine

/-- Row `FRAME` (R100). -/
def execFrame (id : Byte) (payload : List Byte) (tail : Byte) (s : State) : Host.Outcome State Fault Refusal :=
  .next (receive (frameBytes id payload tail) s)

/-- Row `FRAME_PARAM_REQ`: a payload of `PARAM_REQ_LEN` bytes (R162). -/
def execFrameParamReq (p0 p1 tail : Byte) (s : State) : Host.Outcome State Fault Refusal :=
  .next (receive (frameBytes Config.ID_PARAM [p0, p1] tail) s)

/-- Row `FRAME_PARAM_RESP`: the payload of R163. -/
def execFrameParamResp (fw : Half) (brk mab rate tail : Byte) (s : State) : Host.Outcome State Fault Refusal :=
  .next (receive (frameBytes Config.ID_PARAM (paramPayload fw brk mab rate) tail) s)

/-- Row `FRAME_CONFIG`: the payload of R165. -/
def execFrameConfig (fw : Half) (brk mab rate tail : Byte) (s : State) : Host.Outcome State Fault Refusal :=
  .next (receive (frameBytes Config.ID_CONFIG (paramPayload fw brk mab rate) tail) s)

/-- Row `FRAME_RENDER` (R166, R167). -/
def execFrameRender (payload : List Byte) (tail : Byte) (s : State) : Host.Outcome State Fault Refusal :=
  .next (receive (frameBytes Config.ID_RENDER payload tail) s)

end Sys2Proof.Machine
end

