-- ==== Sys2Proof/Machine/Receive.lean ====
section
/-! DEFINITION. The receive operations: RX_BYTE (spec/40_deframer.md R110) and RX_CHUNK (R114). -/

namespace Sys2Proof.Machine

/-- `RX_BYTE d` (R110, R111, R112). -/
def execRxByte (d : Byte) (s : State) : Host.Outcome State Fault Refusal := .next (receiveByte d s)

/-- `RX_CHUNK c`: `RX_BYTE c[0]; ...; RX_BYTE c[|c|-1]`; nothing for the empty chunk (R82, R114). -/
def execRxChunk (chunk : List Byte) (s : State) : Host.Outcome State Fault Refusal := .next (receive chunk s)

/-- The source's own `onBytesReceived(chunk)`, of which RX_CHUNK is the byte-serial form: append the whole chunk, then
drain, as R114 writes it, with no test of FAULT. Not an operation of the block; stated for the comparison that R114 makes.
What the source does with a chunk that arrives when `S.fault` is already 1 it does not state (spec/91_not_in_source.md
N14); reading R114's two lines there too is a DESIGN CHOICE (log 17). -/
def sourceReceive (chunk : List Byte) (s : State) : State :=
  drain { s with rxbuf := s.rxbuf ++ chunk }

end Sys2Proof.Machine
end

