-- ==== Sys2Proof/Machine/Transmit.lean ====
section
/-! DEFINITION. The transmit operations: TX_FRAME (spec/41_framer.md R141) and the frame builders of
spec/42_packets.md, each its expansion into one TX_FRAME (R82). -/

namespace Sys2Proof.Machine

/-- `TX_FRAME id, P` (R141), in FAULT too (R143). -/
def execTxFrame (id : Byte) (payload : List Byte) (s : State) : Host.Outcome State Fault Refusal :=
  .next (transmit id payload s)

/-- `PARAM_REQ` = `TX_FRAME 3, [00 00]` (R162). -/
def execParamReq (s : State) : Host.Outcome State Fault Refusal :=
  .next (transmit Config.ID_PARAM paramReqPayload s)

/-- `CONFIGURE fw, brk, mab, rate` = `TX_FRAME 4, [lo8(fw) hi8(fw) brk mab rate]`; no value is checked (R165). -/
def execConfigure (fw : Half) (brk mab rate : Byte) (s : State) : Host.Outcome State Fault Refusal :=
  .next (transmit Config.ID_CONFIG (paramPayload fw brk mab rate) s)

/-- `RENDER v, sc` = `TX_FRAME 6, [sc] ++ v` (R166). -/
def execRender (values : List Byte) (sc : Byte) (s : State) : Host.Outcome State Fault Refusal :=
  .next (transmit Config.ID_RENDER (renderPayload values sc) s)

end Sys2Proof.Machine
end

