-- ==== Sys2Proof/Machine/Dispatch.lean ====
section
/-! DEFINITION. One arm for each row of spec/opcode_table.json. -/

namespace Sys2Proof.Machine

def exec (i : Instr) (s : State) : Host.Outcome State Fault Refusal :=
  match i with
  | .rxByte d => Sys2Proof.Machine.execRxByte d s
  | .txFrame id payload => Sys2Proof.Machine.execTxFrame id payload s
  | .statusRd => Sys2Proof.Machine.execStatusRd s
  | .reset => Sys2Proof.Machine.execReset s
  | .rxChunk chunk => Sys2Proof.Machine.execRxChunk chunk s
  | .paramReq => Sys2Proof.Machine.execParamReq s
  | .configure fw brk mab rate => Sys2Proof.Machine.execConfigure fw brk mab rate s
  | .render values sc => Sys2Proof.Machine.execRender values sc s
  | .frame id payload tail => Sys2Proof.Machine.execFrame id payload tail s
  | .frameParamReq p0 p1 tail => Sys2Proof.Machine.execFrameParamReq p0 p1 tail s
  | .frameParamResp fw brk mab rate tail => Sys2Proof.Machine.execFrameParamResp fw brk mab rate tail s
  | .frameConfig fw brk mab rate tail => Sys2Proof.Machine.execFrameConfig fw brk mab rate tail s
  | .frameRender payload tail => Sys2Proof.Machine.execFrameRender payload tail s

end Sys2Proof.Machine
end

