-- ==== Sys2Proof/Machine/Step.lean ====
section
/-! DEFINITION. One step: the block takes the oldest operation presented at its ports (spec/10_state.md R21,
spec/30_encoding.md R80; log 1). -/

namespace Sys2Proof.Machine

/-- One atomic step (R5, R58). With no operation presented the block is idle and holds its state (R219; log 2). A request
that stands for no operation is refused: the block does not step (R81). -/
def step (s : State) : Host.Outcome State Fault Refusal :=
  match s.requests with
  | [] => .next s
  | r :: rest =>
    match decode r with
    | .ok i => exec i { s with requests := rest }
    | .error why => .refused (.notAnOperation why)

/-- The owner presents an opcode-table word as the next operation: the block has no memory to fetch from (R61), so this
stands for the owner's access to the port (log 1). -/
def State.withFetchWord (s : State) (nbits w : Nat) : State :=
  { s with requests := tableRequest nbits w :: s.requests }

/-- Instructions one after the other, stopping where one has no next state. -/
def execAll : List Instr → State → Host.Outcome State Fault Refusal
  | [], s => .next s
  | i :: is, s =>
    match exec i s with
    | .next t => execAll is t
    | .fault r => .fault r
    | .refused r => .refused r

end Sys2Proof.Machine
end

