-- ==== Sys2Proof/Machine/Packets.lean ====
section
/-! DEFINITION. PARAM_DECODE, the pure helper on an emitted packet (spec/42_packets.md R163, R164). It is no operation of
the block. -/

namespace Sys2Proof.Machine

/-- The fields of a parameter response (R163). -/
structure Parameters where
  firmwareVersion : Half
  breakTime : Byte
  markAfterBreakTime : Byte
  outputRate : Byte
deriving DecidableEq, Repr

/-- `PARAM_DECODE(p)`: refused, as `none`, unless p has identifier 3 and a payload of 5 bytes (`PARAM_LEN`; R164). -/
def paramDecode (p : Packet) : Option Parameters :=
  if p.id = Config.ID_PARAM ∧ p.payload.length = Config.PARAM_LEN then
    some {
      firmwareVersion := u16le (byteAt p.payload 0) (byteAt p.payload 1)
      breakTime := byteAt p.payload 2
      markAfterBreakTime := byteAt p.payload 3
      outputRate := byteAt p.payload 4 }
  else none

end Sys2Proof.Machine
end

