-- ==== Sys2Proof/Machine/Phase.lean ====
section
/-! DEFINITION. The state-machine view of the receive path: the derived phase (spec/10_state.md R25) and the transition
table (spec/40_deframer.md R115). The block runs by R110; that the table agrees with it is a statement. -/

namespace Sys2Proof.Machine

/-- The phases of R25. -/
inductive Phase where
  | fault
  /-- n header bytes are held. -/
  | hdr (n : Nat)
  /-- k of the L payload bytes are held. -/
  | body (L k : Nat)
  /-- The whole payload is held and the end sentinel awaited. -/
  | tail (L : Nat)
deriving DecidableEq, Repr

/-- `phase(S)` (R25); `none` for a running block whose buffer holds more than R25 provides for, which no run reaches
(log 11). -/
def phase (s : State) : Option Phase :=
  let n := s.rxbuf.length
  let L := (u16le (byteAt s.rxbuf 2) (byteAt s.rxbuf 3)).toNat
  if s.fault = 1 then some .fault
  else if n < Config.HDR_LEN then some (.hdr n)
  else if n - Config.HDR_LEN < L then some (.body L (n - Config.HDR_LEN))
  else if n = Config.HDR_LEN + L then some (.tail L)
  else none

/-- The table of R115: the state and the phase after `RX_BYTE d`, row by row. -/
def phaseTable (s : State) (d : Byte) : Phase → State × Phase
  | .hdr 3 =>
    let L := (u16le (byteAt s.rxbuf 2) d).toNat
    if byteAt s.rxbuf 0 = Config.SOF then
      (bufAppend d s, if L = 0 then .tail 0 else .body L 0)
    else ({ bufAppend d s with fault := 1, cause := 1 }, .fault)
  | .hdr n => (bufAppend d s, .hdr (n + 1))
  | .body L k => (bufAppend d s, if k + 1 = L then .tail L else .body L (k + 1))
  | .tail L =>
    if d = Config.EOF then
      ({ s with rxbuf := [], pktOut := s.pktOut ++ [⟨byteAt s.rxbuf 1, slice s.rxbuf Config.HDR_LEN (Config.HDR_LEN + L)⟩] }, .hdr 0)
    else ({ bufAppend d s with fault := 1, cause := 2 }, .fault)
  | .fault => (s, .fault)

end Sys2Proof.Machine
end

