-- ==== Sys2Proof/Machine/System.lean ====
section
/-! DEFINITION. A system of any number `N_INST` of blocks, one for each device connection (spec/60_exceptions.md R217;
spec/92_eei_decisions.md D25). -/

namespace Sys2Proof.Machine

/-- The blocks of a system; their number is `N_INST`. -/
structure System where
  blocks : List State
deriving DecidableEq, Repr

/-- A block after it was given one step; a block that refuses its request does not step (R81; log 12). -/
def State.advance (s : State) : State :=
  match step s with
  | .next t => t
  | .fault _ => s
  | .refused _ => s

/-- Block `k` steps; a number no block has changes nothing. -/
def System.stepBlock (k : Nat) (y : System) : System := { blocks := y.blocks.modify k State.advance }

/-- A run: the schedule says which block steps next, in any interleaving (R217). -/
def System.run (schedule : List Nat) (y : System) : System := schedule.foldl (fun z k => z.stepBlock k) y

end Sys2Proof.Machine
end

