-- ==== Sys2Proof/Safety.lean ====
section
/-! DEFINITION. What holds in every state a run reaches (spec/10_state.md R30, spec/60_exceptions.md R205, R27, R26), and
what the transmit stream looks like (R28), in the terms the statements use. -/

namespace Sys2Proof.Machine

/-- The payload length in the header a buffer starts with: `u16le(B[2], B[3])`. -/
def headerLength (B : List Byte) : Nat := (u16le (byteAt B 2) (byteAt B 3)).toNat

/-- The invariant of R30, with what a faulted buffer holds (R205), the bound on emitted payloads (R27) and the STATUS
values answered (R26). -/
structure State.Inv (s : State) : Prop where
  /-- R30 part 1. -/
  noCauseWhileRunning : s.fault = 0 → s.cause = 0
  /-- R30 part 1. -/
  causeInFault : s.fault = 1 → s.cause = 1 ∨ s.cause = 2
  /-- R30 part 2. -/
  incompleteWhileRunning : s.fault = 0 → deframe s.rxbuf = .incomplete
  /-- R30 part 3: at most 65539 bytes. -/
  boundWhileRunning : s.fault = 0 → s.rxbuf.length < Config.RXBUF_CAP
  /-- R30 part 3. -/
  boundInFault : s.fault = 1 → s.rxbuf.length ≤ Config.RXBUF_CAP
  /-- R205, START: exactly the four header bytes, the first of them bad (R24). -/
  startFaultBuffer : s.fault = 1 → s.cause = 1 → s.rxbuf.length = Config.HDR_LEN ∧ byteAt s.rxbuf 0 ≠ Config.SOF
  /-- R205, END: exactly the 5 + L bytes of the frame, the last of them bad (R24). -/
  endFaultBuffer : s.fault = 1 → s.cause = 2 → byteAt s.rxbuf 0 = Config.SOF ∧
    s.rxbuf.length = Config.MIN_FRAME + headerLength s.rxbuf ∧
    byteAt s.rxbuf (Config.HDR_LEN + headerLength s.rxbuf) ≠ Config.EOF
  /-- R27. -/
  payloadBound : ∀ p ∈ s.pktOut, p.payload.length ≤ Config.MAX_PAYLOAD
  /-- R26: "Its only values are 0x00 (running), 0x03 (fault, START) and 0x05 (fault, END)". -/
  statusLegal : ∀ w, Response.status w ∈ s.responses → w = 0x00 ∨ w = 0x03 ∨ w = 0x05

/-- `tx_out` is whole frames one after the other, and nothing else (R28). -/
def State.TxWhole (s : State) : Prop :=
  ∃ sent : List Packet, (∀ p ∈ sent, p.payload.length ≤ Config.MAX_PAYLOAD) ∧
    s.txOut = sent.flatMap fun p => frameBytes p.id p.payload Config.EOF

/-- The instructions that deliver bytes to the receive path. -/
def Receives : Instr → Bool
  | .rxByte _ => true
  | .rxChunk _ => true
  | .frame _ _ _ => true
  | .frameParamReq _ _ _ => true
  | .frameParamResp _ _ _ _ _ => true
  | .frameConfig _ _ _ _ _ => true
  | .frameRender _ _ => true
  | .txFrame _ _ => false
  | .statusRd => false
  | .reset => false
  | .paramReq => false
  | .configure _ _ _ _ => false
  | .render _ _ => false

/-- The instructions that request a transmission. -/
def Transmits : Instr → Bool
  | .txFrame _ _ => true
  | .paramReq => true
  | .configure _ _ _ _ => true
  | .render _ _ => true
  | .rxByte _ => false
  | .rxChunk _ => false
  | .statusRd => false
  | .reset => false
  | .frame _ _ _ => false
  | .frameParamReq _ _ _ => false
  | .frameParamResp _ _ _ _ _ => false
  | .frameConfig _ _ _ _ _ => false
  | .frameRender _ _ => false

end Sys2Proof.Machine
end

