-- ==== Sys2Proof/Certificates/Slice0/Obligations.lean ====
section
/-! DEFINITION. The statements for the provers, from the numbered rules of spec/. -/

open Sys2Proof Sys2Proof.Machine

/-! ### Constants, reset and control -/

/-- R6: the fixed constants, the derived ones among them; the two payload sizes of I8. -/
def Obligations.ConstantsHaveTheirValues : Prop :=
  Config.SOF = 0x7E ∧ Config.EOF = 0xE7 ∧ Config.HDR_LEN = 4 ∧ Config.MAX_PAYLOAD = 65535 ∧
    Config.MAX_FRAME = 65540 ∧ Config.MIN_FRAME = 5 ∧ Config.RXBUF_CAP = 65540 ∧ Config.ID_PARAM = 3 ∧
    Config.ID_CONFIG = 4 ∧ Config.ID_RENDER = 6 ∧ Config.MAX_UNIVERSE = 65534 ∧
    Config.PARAM_REQ_LEN = 2 ∧ Config.PARAM_LEN = 5 ∧
    (∀ sc : Byte, ∀ v : List Byte, v.length ≤ Config.MAX_UNIVERSE ↔
      (renderPayload v sc).length ≤ Config.MAX_PAYLOAD)

/-- R240: the power-on state, with both outputs empty; R31's STATUS value. -/
def Obligations.PowerOnStateIsEmpty : Prop :=
  State.reset.rxbuf = [] ∧ State.reset.fault = 0 ∧ State.reset.cause = 0 ∧ State.reset.pktOut = [] ∧
    State.reset.txOut = [] ∧ statusWord State.reset = 0x00

/-- R190, in every state, FAULT included: the buffer and both flags take their reset values, and nothing else changes; a
second RESET adds nothing; no other instruction leads out of FAULT. -/
def Obligations.ResetClearsReceivePath : Prop :=
  ∀ s : State, exec .reset s = .next { s with rxbuf := [], fault := 0, cause := 0 } ∧
    execAll [.reset, .reset] s = exec .reset s ∧
    ∀ (i : Instr) (t : State), s.fault = 1 → exec i s = .next t → t.fault = 0 → i = .reset

/-- R191, in every state: the response is the STATUS word of R26 and nothing else changes; its FAULT and CAUSE fields and
its reserved bits; its three values in the states of the invariant. -/
def Obligations.StatusReadAnswersStatusWord : Prop :=
  ∀ s : State, ∃ w : BitVec 8,
    exec .statusRd s = .next { s with responses := s.responses ++ [.status w] } ∧
    w = s.cause.zeroExtend 8 <<< 1 ||| s.fault.zeroExtend 8 ∧
    w.extractLsb' 0 1 = s.fault ∧ w.extractLsb' 1 2 = s.cause ∧ w.extractLsb' 3 5 = 0 ∧
    (s.Inv → (s.fault = 0 → w = 0x00) ∧ (s.fault = 1 ∧ s.cause = 1 → w = 0x03) ∧
      (s.fault = 1 ∧ s.cause = 2 → w = 0x05) ∧ (w = 0x00 ∨ w = 0x03 ∨ w = 0x05))

/-- R247: RESET in the middle of anything discards the buffer, and the next byte is byte 0 of a new frame: unless it is
SOF, a FramingError(START) follows at the fourth byte. -/
def Obligations.ResetMidFrameRestartsFraming : Prop :=
  ∀ (s : State) (b0 b1 b2 b3 : Byte), b0 ≠ 0x7E →
    execAll [.reset, .rxByte b0, .rxByte b1, .rxByte b2] s =
        .next { s with rxbuf := [b0, b1, b2], fault := 0, cause := 0 } ∧
      execAll [.reset, .rxByte b0, .rxByte b1, .rxByte b2, .rxByte b3] s =
        .next { s with rxbuf := [b0, b1, b2, b3], fault := 1, cause := 1 }

/-- R57, its four points: STATUS_RD leaves the state (its response apart) and answers the same again; two RESETs are one;
RX_BYTE and a sent TX_FRAME are not idempotent (each send appends the frame that encode gives); a refused TX_FRAME sends nothing however often it is repeated. -/
def Obligations.IdempotencyOfOperations : Prop :=
  (∀ s : State, ∃ w, exec .statusRd s = .next { s with responses := s.responses ++ [.status w] } ∧
    execAll [.statusRd, .statusRd] s = .next { s with responses := s.responses ++ [.status w, .status w] }) ∧
  (∀ s : State, execAll [.reset, .reset] s = exec .reset s) ∧
  (∀ (d : Byte) (s : State), s.fault = 0 → s.rxbuf = [] →
    exec (.rxByte d) s = .next { s with rxbuf := [d] } ∧
      execAll [.rxByte d, .rxByte d] s = .next { s with rxbuf := [d, d] }) ∧
  (∀ (id : Byte) (P : List Byte) (s : State), P.length ≤ 65535 →
    ∃ f, enframe id P = .ok f ∧ f.length = 5 + P.length ∧
      exec (.txFrame id P) s = .next { s with
        txOut := s.txOut ++ f, responses := s.responses ++ [.txResult 0] } ∧
      execAll [.txFrame id P, .txFrame id P] s = .next { s with
        txOut := s.txOut ++ f ++ f, responses := s.responses ++ [.txResult 0, .txResult 0] }) ∧
  (∀ (id : Byte) (P : List Byte) (s : State), 65535 < P.length →
    execAll [.txFrame id P, .txFrame id P] s =
      .next { s with responses := s.responses ++ [.txResult 1, .txResult 1] })

/-! ### The codec -/

/-- R100: when decode gives each of its results, with `L = B[2] + 256 * B[3]`. -/
def Obligations.DecodeResultsCharacterised : Prop :=
  ∀ B : List Byte, let L := (B.getD 2 0).toNat + 256 * (B.getD 3 0).toNat
    (deframe B = .incomplete ↔ B.length < 4 ∨ (B.getD 0 0 = 0x7E ∧ B.length < 5 + L)) ∧
    (deframe B = .err .startSentinel ↔ 4 ≤ B.length ∧ B.getD 0 0 ≠ 0x7E) ∧
    (deframe B = .err .endSentinel ↔
      4 ≤ B.length ∧ B.getD 0 0 = 0x7E ∧ 5 + L ≤ B.length ∧ B.getD (4 + L) 0 ≠ 0xE7) ∧
    (∀ p n, deframe B = .ok p n ↔
      4 ≤ B.length ∧ B.getD 0 0 = 0x7E ∧ 5 + L ≤ B.length ∧ B.getD (4 + L) 0 = 0xE7 ∧
        p = ⟨B.getD 1 0, (B.drop 4).take L⟩ ∧ n = 5 + L)

/-- R101, its four parts. -/
def Obligations.DecodePrefixLaws : Prop :=
  (∀ B p n, deframe B = .ok p n →
    5 ≤ n ∧ n ≤ B.length ∧ ∀ X, deframe (B.take n ++ X) = .ok p n) ∧
  (∀ B k, deframe B = .err k → ∀ X, deframe (B ++ X) = .err k) ∧
  (∃ B, deframe B = .incomplete ∧ (∃ X, deframe (B ++ X) = .incomplete) ∧
    (∃ X p n, deframe (B ++ X) = .ok p n) ∧ ∃ X k, deframe (B ++ X) = .err k) ∧
  (∀ B, deframe B = .incomplete ↔
    B.length < 4 ∨ (B.getD 0 0 = 0x7E ∧ B.length < 5 + (u16le (B.getD 2 0) (B.getD 3 0)).toNat))

/-- R102: decode inverts encode in front of anything. -/
def Obligations.DecodeInvertsEncode : Prop :=
  ∀ (id : Byte) (P X : List Byte), P.length ≤ 65535 →
    ∃ f, enframe id P = .ok f ∧ deframe (f ++ X) = .ok ⟨id, P⟩ (5 + P.length)

/-- R140: the layout, its length, the refusal of every longer payload, and that encode is injective where it succeeds. -/
def Obligations.EncodeLayoutAndRefusal : Prop :=
  (∀ (id : Byte) (P : List Byte), P.length ≤ 65535 → ∃ lo hi : Byte,
    enframe id P = .ok ([0x7E, id, lo, hi] ++ P ++ [0xE7]) ∧
      lo.toNat = P.length % 256 ∧ hi.toNat = P.length / 256) ∧
  (∀ (id : Byte) (P : List Byte), 65535 < P.length → enframe id P = .payloadTooLarge) ∧
  (∀ (id id' : Byte) (P P' f : List Byte), enframe id P = .ok f → enframe id' P' = .ok f → id = id' ∧ P = P')

/-- R52: within the buffer (R8), MemRead of two bytes is the little-endian value, and each byte alone is its half. -/
def Obligations.LengthFieldIsLittleEndian : Prop :=
  ∀ (B : List Byte) (a : Nat), a + 2 ≤ B.length →
    memRead B a 2 = (B.getD a 0).toNat + 256 * (B.getD (a + 1) 0).toNat ∧
    memRead B a 2 = (u16le (B.getD a 0) (B.getD (a + 1) 0)).toNat ∧
    memRead B a 1 = (lo8 (memRead B a 2)).toNat ∧ memRead B (a + 1) 1 = (hi8 (memRead B a 2)).toNat

/-- R78: no escaping. Two frames of the same identifier and length, whatever their payload bytes (sentinels among them),
get the same verdict, and the payload delivered is the payload carried. -/
def Obligations.PayloadBytesHaveNoFramingEffect : Prop :=
  ∀ (id lo hi tail : Byte) (P Q X : List Byte), P.length = lo.toNat + 256 * hi.toNat → Q.length = P.length →
    ((tail = 0xE7 → deframe ([0x7E, id, lo, hi] ++ P ++ [tail] ++ X) = .ok ⟨id, P⟩ (5 + P.length) ∧
        deframe ([0x7E, id, lo, hi] ++ Q ++ [tail] ++ X) = .ok ⟨id, Q⟩ (5 + P.length)) ∧
      (tail ≠ 0xE7 → deframe ([0x7E, id, lo, hi] ++ P ++ [tail] ++ X) = .err .endSentinel ∧
        deframe ([0x7E, id, lo, hi] ++ Q ++ [tail] ++ X) = .err .endSentinel))

/-! ### RX_BYTE -/

/-- R111, R243: the byte 0xE7 after a whole payload emits the packet in its own step, and empties the buffer; and from the
states of the invariant no packet is emitted in any other way. -/
def Obligations.EndSentinelEmitsPacket : Prop :=
  (∀ (s : State) (id lo hi : Byte) (P : List Byte), s.fault = 0 → P.length = lo.toNat + 256 * hi.toNat →
    s.rxbuf = [0x7E, id, lo, hi] ++ P →
    exec (.rxByte 0xE7) s = .next { s with rxbuf := [], pktOut := s.pktOut ++ [⟨id, P⟩] }) ∧
  (∀ (s t : State) (d : Byte), s.Inv → exec (.rxByte d) s = .next t → t.pktOut ≠ s.pktOut →
    d = 0xE7 ∧ s.fault = 0 ∧ ∃ (id lo hi : Byte) (P : List Byte), P.length = lo.toNat + 256 * hi.toNat ∧
      s.rxbuf = [0x7E, id, lo, hi] ++ P ∧ t.pktOut = s.pktOut ++ [⟨id, P⟩])

/-- R204, R203: any other byte there is a FramingError(END): the buffer keeps the frame, nothing is emitted. -/
def Obligations.BadEndSentinelFaults : Prop :=
  ∀ (s : State) (id lo hi d : Byte) (P : List Byte), s.fault = 0 → P.length = lo.toNat + 256 * hi.toNat →
    s.rxbuf = [0x7E, id, lo, hi] ++ P → d ≠ 0xE7 →
    exec (.rxByte d) s = .next { s with rxbuf := [0x7E, id, lo, hi] ++ P ++ [d], fault := 1, cause := 2 }

/-- R202, R245: a bad start byte is a FramingError(START) at the fourth byte, whatever bytes 1 to 3 are, and no earlier. -/
def Obligations.BadStartSentinelFaultsAtFourthByte : Prop :=
  (∀ (s : State) (b0 b1 b2 d : Byte), s.fault = 0 → s.rxbuf = [b0, b1, b2] → b0 ≠ 0x7E →
    exec (.rxByte d) s = .next { s with rxbuf := [b0, b1, b2, d], fault := 1, cause := 1 }) ∧
  (∀ (s : State) (d : Byte), s.fault = 0 → s.rxbuf.length < 3 →
    exec (.rxByte d) s = .next { s with rxbuf := s.rxbuf ++ [d] })

/-- R79: while the frame is partial, decode is Incomplete and the byte is only appended. -/
def Obligations.PartialFrameWaits : Prop :=
  (∀ (s : State) (d : Byte), s.fault = 0 → s.rxbuf.length < 3 →
    exec (.rxByte d) s = .next { s with rxbuf := s.rxbuf ++ [d] } ∧ deframe (s.rxbuf ++ [d]) = .incomplete) ∧
  (∀ (s : State) (id lo d : Byte), s.fault = 0 → s.rxbuf = [0x7E, id, lo] →
    exec (.rxByte d) s = .next { s with rxbuf := [0x7E, id, lo, d] } ∧ deframe [0x7E, id, lo, d] = .incomplete) ∧
  (∀ (s : State) (id lo hi d : Byte) (P : List Byte), s.fault = 0 → P.length < lo.toNat + 256 * hi.toNat →
    s.rxbuf = [0x7E, id, lo, hi] ++ P →
    exec (.rxByte d) s = .next { s with rxbuf := [0x7E, id, lo, hi] ++ P ++ [d] } ∧
      deframe ([0x7E, id, lo, hi] ++ P ++ [d]) = .incomplete)

/-- R112: in FAULT a received byte has no effect at all, however it is delivered, and only RESET leaves FAULT or changes
its cause. -/
def Obligations.FaultDropsBytesUntilReset : Prop :=
  (∀ (s : State) (d : Byte), s.fault = 1 → exec (.rxByte d) s = .next s) ∧
  (∀ (s : State) (i : Instr), s.fault = 1 → Receives i → exec i s = .next s) ∧
  (∀ (s t : State) (i : Instr), s.fault = 1 → i ≠ .reset → exec i s = .next t →
    t.fault = 1 ∧ t.cause = s.cause ∧ t.pktOut = s.pktOut)

/-- R113: at most one packet a byte, made of the whole buffer, which it empties; a FramingError is detected on the byte just appended;
the drain loop runs at most two passes. -/
def Obligations.OneByteEmitsAtMostOnePacket : Prop :=
  ∀ (s t : State) (d : Byte), s.Inv → exec (.rxByte d) s = .next t →
    (t.pktOut = s.pktOut ∨ ∃ p, deframe (s.rxbuf ++ [d]) = .ok p (s.rxbuf.length + 1) ∧
      t = { s with rxbuf := [], pktOut := s.pktOut ++ [p] }) ∧
    (s.fault = 0 → t.fault = 1 → t.rxbuf = s.rxbuf ++ [d] ∧ t.pktOut = s.pktOut) ∧
    (s.fault = 0 → drain (bufAppend d s) = drainLoop 2 (bufAppend d s))

/-- R203, R205: entry into FAULT sets both flags and saves nothing else; the failing frame stays in the buffer: four bytes
for START, 5 + L for END. -/
def Obligations.FaultKeepsFailingFrame : Prop :=
  ∀ (s t : State) (d : Byte), s.Inv → s.fault = 0 → exec (.rxByte d) s = .next t → t.fault = 1 →
    t = { s with rxbuf := s.rxbuf ++ [d], fault := 1, cause := t.cause } ∧
      ((t.cause = 1 ∧ t.rxbuf.length = 4 ∧ deframe t.rxbuf = .err .startSentinel) ∨
        (t.cause = 2 ∧ t.rxbuf.length = 5 + (t.rxbuf.getD 2 0).toNat + 256 * (t.rxbuf.getD 3 0).toNat ∧
          deframe t.rxbuf = .err .endSentinel))

/-- R115: on the states of the invariant RX_BYTE is the state machine of the table, in its result and in its next
phase; R25: every such state has a phase, and outside FAULT a buffer of four bytes or more starts with SOF. -/
def Obligations.ReceivePathIsStateMachine : Prop :=
  ∀ s : State, s.Inv → ∃ ph, phase s = some ph ∧
    (ph ≠ .fault → 4 ≤ s.rxbuf.length → s.rxbuf.getD 0 0 = 0x7E) ∧
    ∀ d : Byte, exec (.rxByte d) s = .next (phaseTable s d ph).1 ∧
      phase (phaseTable s d ph).1 = some (phaseTable s d ph).2

/-! ### RX_CHUNK and the frame rows -/

/-- R82: each pseudo-operation is its expansion into the operations of R80. -/
def Obligations.PseudoOperationsAreTheirExpansions : Prop :=
  ∀ s : State,
    (∀ c : List Byte, exec (.rxChunk c) s = execAll (c.map .rxByte) s) ∧
    exec .paramReq s = exec (.txFrame 3 [0x00, 0x00]) s ∧
    (∀ (fw : Half) (brk mab rate : Byte), exec (.configure fw brk mab rate) s =
      exec (.txFrame 4 [fw.extractLsb' 0 8, fw.extractLsb' 8 8, brk, mab, rate]) s) ∧
    (∀ (v : List Byte) (sc : Byte), exec (.render v sc) s = exec (.txFrame 6 ([sc] ++ v)) s)

/-- R114: the byte-serial RX_CHUNK completes, and agrees with the source's append-then-drain: the same packets, fault and
cause, the same buffer when no fault occurs; in FAULT the source's buffer holds the rest of the chunk as well. That the
source appends and drains a chunk that arrives when the fault already stands is the model's choice (log 17). -/
def Obligations.ChunkAgreesWithSource : Prop :=
  ∀ (s : State) (c : List Byte), s.Inv → ∃ t, exec (.rxChunk c) s = .next t ∧
    execAll (c.map .rxByte) s = .next t ∧
    t.pktOut = (sourceReceive c s).pktOut ∧ t.fault = (sourceReceive c s).fault ∧
    t.cause = (sourceReceive c s).cause ∧ (t.fault = 0 → t = sourceReceive c s) ∧
    (t.fault = 1 → ∃ rest, rest <:+ c ∧ (sourceReceive c s).rxbuf = t.rxbuf ++ rest)

/-- R116 and the source's two properties under it: in any state the split point does not matter; from a frame boundary,
frames one after the other are emitted in order, none dropped, none merged, and nothing else changes, in one chunk and byte
by byte. -/
def Obligations.StreamIsReassembledWhateverTheSplit : Prop :=
  (∀ (s : State) (a b : List Byte), exec (.rxChunk (a ++ b)) s = execAll [.rxChunk a, .rxChunk b] s) ∧
  (∀ (s : State) (ps : List Packet), s.fault = 0 → s.rxbuf = [] → (∀ p ∈ ps, p.payload.length ≤ 65535) →
    ∀ c : List Byte, c = ps.flatMap (fun p => frameBytes p.id p.payload 0xE7) →
      exec (.rxChunk c) s = .next { s with pktOut := s.pktOut ++ ps } ∧
      execAll (c.map .rxByte) s = .next { s with pktOut := s.pktOut ++ ps })

/-- The two paths of two blocks agree: the bytes one block transmits for a packet, delivered one by one to another block at
a frame boundary, are received as exactly that packet. -/
def Obligations.TransmittedBytesAreReceived : Prop :=
  ∀ (r s t : State) (id : Byte) (P : List Byte), r.fault = 0 → r.rxbuf = [] → P.length ≤ 65535 →
    exec (.txFrame id P) s = .next t →
    execAll ((t.txOut.drop s.txOut.length).map .rxByte) r = .next { r with pktOut := r.pktOut ++ [⟨id, P⟩] }

/-- By the model's reading of the frame rows (log 3): every frame row at a frame boundary emits its packet if its last byte is 0xE7, whatever its identifier
and payload, and changes nothing else. -/
def Obligations.FrameRowsEmitTheirPacket : Prop :=
  ∀ s : State, s.fault = 0 → s.rxbuf = [] →
    (∀ (id : Byte) (P : List Byte), P.length ≤ 65535 →
      exec (.frame id P 0xE7) s = .next { s with pktOut := s.pktOut ++ [⟨id, P⟩] }) ∧
    (∀ p0 p1 : Byte, exec (.frameParamReq p0 p1 0xE7) s =
      .next { s with pktOut := s.pktOut ++ [⟨3, [p0, p1]⟩] }) ∧
    (∀ (fw : Half) (brk mab rate : Byte), exec (.frameParamResp fw brk mab rate 0xE7) s =
      .next { s with pktOut :=
        s.pktOut ++ [⟨3, [fw.extractLsb' 0 8, fw.extractLsb' 8 8, brk, mab, rate]⟩] }) ∧
    (∀ (fw : Half) (brk mab rate : Byte), exec (.frameConfig fw brk mab rate 0xE7) s =
      .next { s with pktOut :=
        s.pktOut ++ [⟨4, [fw.extractLsb' 0 8, fw.extractLsb' 8 8, brk, mab, rate]⟩] }) ∧
    (∀ P : List Byte, P.length ≤ 65535 → exec (.frameRender P 0xE7) s =
      .next { s with pktOut := s.pktOut ++ [⟨6, P⟩] })

/-- By the model's reading of the frame rows (log 3): every frame row at a frame boundary whose last byte is not 0xE7 is a FramingError(END), the frame kept. -/
def Obligations.FrameRowsWithBadEndFault : Prop :=
  ∀ (s : State) (e : Byte), s.fault = 0 → s.rxbuf = [] → e ≠ 0xE7 →
    (∀ (id : Byte) (P : List Byte), P.length ≤ 65535 → exec (.frame id P e) s =
      .next { s with rxbuf := frameBytes id P e, fault := 1, cause := 2 }) ∧
    (∀ p0 p1 : Byte, exec (.frameParamReq p0 p1 e) s =
      .next { s with rxbuf := [0x7E, 3, 2, 0, p0, p1, e], fault := 1, cause := 2 }) ∧
    (∀ (fw : Half) (brk mab rate : Byte), exec (.frameParamResp fw brk mab rate e) s =
      .next { s with rxbuf := [0x7E, 3, 5, 0, fw.extractLsb' 0 8, fw.extractLsb' 8 8, brk, mab, rate, e],
                     fault := 1, cause := 2 }) ∧
    (∀ (fw : Half) (brk mab rate : Byte), exec (.frameConfig fw brk mab rate e) s =
      .next { s with rxbuf := [0x7E, 4, 5, 0, fw.extractLsb' 0 8, fw.extractLsb' 8 8, brk, mab, rate, e],
                     fault := 1, cause := 2 }) ∧
    (∀ P : List Byte, P.length ≤ 65535 → exec (.frameRender P e) s =
      .next { s with rxbuf := frameBytes 6 P e, fault := 1, cause := 2 })

/-- Log 3, the model's reading of R84: in every state a frame row is the operations it expands to. -/
def Obligations.InstructionsAreTheirExpansions : Prop :=
  ∀ (i : Instr) (s : State), exec i s = execAll (expand i) s

/-! ### TX_FRAME and the builders -/

/-- R141, R206, R143, in every state: a payload that fits is sent contiguously with TXRESULT 0; a longer one sends nothing
and answers TXRESULT 1; nothing else changes. -/
def Obligations.TxFrameSendsOrRefuses : Prop :=
  ∀ (s : State) (id : Byte) (P : List Byte),
    (P.length ≤ 65535 → ∃ lo hi : Byte, lo.toNat = P.length % 256 ∧ hi.toNat = P.length / 256 ∧
      exec (.txFrame id P) s = .next { s with
        txOut := s.txOut ++ ([0x7E, id, lo, hi] ++ P ++ [0xE7]), responses := s.responses ++ [.txResult 0] }) ∧
    (65535 < P.length →
      exec (.txFrame id P) s = .next { s with responses := s.responses ++ [.txResult 1] })

/-- R162. -/
def Obligations.ParamReqSendsRequest : Prop :=
  ∀ s : State, exec .paramReq s = .next { s with
    txOut := s.txOut ++ [0x7E, 0x03, 0x02, 0x00, 0x00, 0x00, 0xE7], responses := s.responses ++ [.txResult 0] }

/-- R165. -/
def Obligations.ConfigureSendsParameters : Prop :=
  ∀ (s : State) (fw : Half) (brk mab rate : Byte), exec (.configure fw brk mab rate) s = .next { s with
    txOut := s.txOut ++ [0x7E, 0x04, 0x05, 0x00, fw.extractLsb' 0 8, fw.extractLsb' 8 8, brk, mab, rate, 0xE7],
    responses := s.responses ++ [.txResult 0] }

/-- R166: N channel values behind the start code; PayloadTooLarge exactly when N > 65534. -/
def Obligations.RenderSendsChannels : Prop :=
  ∀ (s : State) (v : List Byte) (sc : Byte),
    (v.length ≤ 65534 → ∃ lo hi : Byte, lo.toNat = (1 + v.length) % 256 ∧ hi.toNat = (1 + v.length) / 256 ∧
      exec (.render v sc) s = .next { s with
        txOut := s.txOut ++ ([0x7E, 0x06, lo, hi, sc] ++ v ++ [0xE7]), responses := s.responses ++ [.txResult 0] }) ∧
    (65534 < v.length →
      exec (.render v sc) s = .next { s with responses := s.responses ++ [.txResult 1] })

/-- R164: the fields of a 5-byte identifier-3 packet; every other packet is refused. -/
def Obligations.ParamDecodeReadsFields : Prop :=
  (∀ p0 p1 p2 p3 p4 : Byte, ∃ q, paramDecode ⟨3, [p0, p1, p2, p3, p4]⟩ = some q ∧
    q.firmwareVersion.toNat = p0.toNat + 256 * p1.toNat ∧ q.breakTime = p2 ∧ q.markAfterBreakTime = p3 ∧
    q.outputRate = p4) ∧
  (∀ p : Packet, p.id ≠ 3 ∨ p.payload.length ≠ 5 → paramDecode p = none)

/-- R163: the ten bytes of a parameter response received at a frame boundary are emitted as a 5-byte packet, and
PARAM_DECODE of it gives the fields in their declared order, the firmware version little-endian. -/
def Obligations.ReceivedParametersDecode : Prop :=
  ∀ (s : State) (p0 p1 p2 p3 p4 : Byte), s.fault = 0 → s.rxbuf = [] →
    exec (.rxChunk [0x7E, 0x03, 0x05, 0x00, p0, p1, p2, p3, p4, 0xE7]) s =
        .next { s with pktOut := s.pktOut ++ [⟨3, [p0, p1, p2, p3, p4]⟩] } ∧
      paramDecode ⟨3, [p0, p1, p2, p3, p4]⟩ = some {
        firmwareVersion := u16le p0 p1, breakTime := p2, markAfterBreakTime := p3, outputRate := p4 } ∧
      (u16le p0 p1).toNat = p0.toNat + 256 * p1.toNat

/-! ### Frames and independence -/

/-- What an instruction that receives leaves unchanged: `tx_out`, the responses and the requests; `pkt_out` only grows at
its end. -/
def Obligations.ReceivingLeavesTransmitSide : Prop :=
  ∀ (s t : State) (i : Instr), Receives i → exec i s = .next t →
    t.txOut = s.txOut ∧ t.responses = s.responses ∧ t.requests = s.requests ∧ s.pktOut <+: t.pktOut

/-- What an instruction that transmits leaves unchanged: the buffer, both flags, `pkt_out` and the requests; it answers
exactly one TXRESULT, and `tx_out` grows only if that is 0. -/
def Obligations.TransmittingLeavesReceiveSide : Prop :=
  ∀ (s t : State) (i : Instr), Transmits i → exec i s = .next t →
    t.rxbuf = s.rxbuf ∧ t.fault = s.fault ∧ t.cause = s.cause ∧ t.pktOut = s.pktOut ∧ t.requests = s.requests ∧
    ∃ r : BitVec 1, t.responses = s.responses ++ [.txResult r] ∧ s.txOut <+: t.txOut ∧
      (t.txOut = s.txOut ↔ r = 1)

/-- R143: the transmit path does the same whatever the receive path holds, FAULT included, and the receive path the same
whatever was transmitted. -/
def Obligations.PathsDoNotReadEachOther : Prop :=
  (∀ (s s' t t' : State) (i : Instr), Transmits i → s.txOut = s'.txOut → s.responses = s'.responses →
    exec i s = .next t → exec i s' = .next t' → t.txOut = t'.txOut ∧ t.responses = t'.responses) ∧
  (∀ (s s' t t' : State) (i : Instr), Receives i → s.rxbuf = s'.rxbuf → s.fault = s'.fault →
    s.cause = s'.cause → s.pktOut = s'.pktOut → exec i s = .next t → exec i s' = .next t' →
    t.rxbuf = t'.rxbuf ∧ t.fault = t'.fault ∧ t.cause = t'.cause ∧ t.pktOut = t'.pktOut)

/-- R58, consequence 2: a receiving and a transmitting instruction give the same state in either order. -/
def Obligations.ReceivingAndTransmittingCommute : Prop :=
  ∀ (s : State) (i j : Instr), Receives i → Transmits j → execAll [i, j] s = execAll [j, i] s

/-- The outputs only ever grow at their end, whatever is executed, RESET included: `pkt_out` and `tx_out` by R27 and R28;
that the responses too only grow, RESET included, is the model's choice (log 9). -/
def Obligations.OutputsAreAppendOnly : Prop :=
  ∀ (i : Instr) (s t : State), exec i s = .next t →
    s.pktOut <+: t.pktOut ∧ s.txOut <+: t.txOut ∧ s.responses <+: t.responses

/-! ### Decoding and stepping -/

/-- R80, R81: what an OPWORD is, by its OP (bits 10:8) and DATA (bits 7:0); a reserved word is refused by name. -/
def Obligations.OperationWordsDecode : Prop :=
  ∀ (w : OpWord) (P : List Byte), let op := w.toNat / 256; let data := BitVec.ofNat 8 w.toNat
    (op = 1 → decode (.word w []) = .ok (.rxByte data)) ∧
    (op = 2 → decode (.word w P) = .ok (.txFrame data P)) ∧
    (op = 3 → data = 0 → decode (.word w []) = .ok .statusRd) ∧
    (op = 4 → data = 0 → decode (.word w []) = .ok .reset) ∧
    ((op = 3 ∨ op = 4) → data ≠ 0 → decode (.word w P) = .error (.reservedData w)) ∧
    ((op = 0 ∨ 5 ≤ op) → decode (.word w P) = .error (.reservedOp w))

/-- R81: a reserved word is refused and the block does not step. -/
def Obligations.ReservedWordsAreRefused : Prop :=
  ∀ (s : State) (w : OpWord) (P : List Byte) (rest : List Request),
    s.requests = .word w P :: rest →
    ((w.toNat / 256 = 0 ∨ 5 ≤ w.toNat / 256) → step s = .refused (.notAnOperation (.reservedOp w))) ∧
    ((w.toNat / 256 = 3 ∨ w.toNat / 256 = 4) → w.toNat % 256 ≠ 0 →
      step s = .refused (.notAnOperation (.reservedData w)))

/-- Words, frames and lines written out from the encodings of R71, R81 and R83 decode to what they stand for. That bytes on
the wire are their row's instruction is the model's reading (log 3), and that the more specific row wins its choice
(log 5); the render row takes L of at least 1 (R84). -/
def Obligations.WrittenOutEncodingsDecode : Prop :=
  decode (.word 0b00101111110 []) = .ok (.rxByte 0x7E) ∧
  decode (.word 0b01000000011 [0x00, 0x00]) = .ok (.txFrame 3 [0x00, 0x00]) ∧
  decode (.word 0b01100000000 []) = .ok .statusRd ∧
  decode (.word 0b10000000000 []) = .ok .reset ∧
  decode (.wire [0x7E, 0x10, 0x01, 0x00, 0xAA, 0xE7]) = .ok (.frame 0x10 [0xAA] 0xE7) ∧
  decode (.wire [0x7E, 0x03, 0x02, 0x00, 0x00, 0x00, 0xE7]) = .ok (.frameParamReq 0 0 0xE7) ∧
  decode (.wire [0x7E, 0x03, 0x05, 0x00, 0x34, 0x12, 0x09, 0x01, 0x28, 0xE7]) =
    .ok (.frameParamResp 0x1234 9 1 40 0xE7) ∧
  decode (.wire [0x7E, 0x04, 0x05, 0x00, 0x34, 0x12, 0x09, 0x01, 0x28, 0xE7]) =
    .ok (.frameConfig 0x1234 9 1 40 0xE7) ∧
  decode (.wire [0x7E, 0x06, 0x03, 0x00, 0xCC, 0xFF, 0x80, 0xE7]) = .ok (.frameRender [0xCC, 0xFF, 0x80] 0xE7) ∧
  decode (.wire [0x7E, 0x06, 0x00, 0x00, 0xE7]) = .ok (.frame 6 [] 0xE7) ∧
  decode (.line "RX_CHUNK 7E 03 ; two bytes".toList) = .ok (.rxChunk [0x7E, 0x03]) ∧
  decode (.line "CONFIGURE 0x1234, 9, 1, 40".toList) = .ok (.configure 0x1234 9 1 40) ∧
  decode (.line "RENDER [FF 80^2], 0xCC".toList) = .ok (.render [0xFF, 0x80, 0x80] 0xCC) ∧
  decode (.line "PARAM_REQ".toList) = .ok .paramReq

/-- Decode and encode agree: every well-formed instruction is read back from the request that presents it, every operand
at every value. -/
def Obligations.DecodeEncodeRoundTrip : Prop :=
  ∀ i : Instr, WellFormed i → decode (encode i) = .ok i

/-- The other direction, where a form is the only one: an operation word, and bytes that stand under a frame row. -/
def Obligations.EncodeDecodeRoundTrip : Prop :=
  (∀ (w : OpWord) (P : List Byte) (i : Instr), decode (.word w P) = .ok i → encode i = .word w P) ∧
  (∀ (bytes : List Byte) (i : Instr), decode (.wire bytes) = .ok i → (∀ c, i ≠ .rxChunk c) → encode i = .wire bytes)

/-- The decoder answers well-formed instructions only. -/
def Obligations.DecodedInstructionsAreWellFormed : Prop :=
  ∀ (r : Request) (i : Instr), decode r = .ok i → WellFormed i

/-- R79, R84 (logs 3 and 4): any bytes on the wire are received as what they are, whichever row they stand under. -/
def Obligations.WireBytesAreReceivedUnderAnyRow : Prop :=
  ∀ (bytes : List Byte) (s : State), ∃ i, decode (.wire bytes) = .ok i ∧ exec i s = exec (.rxChunk bytes) s

/-- R82, R83: a pseudo-operation and an operation have OPWORDs: every operation of the expansion is one, and reads back. -/
def Obligations.ExpansionsAreOperationWords : Prop :=
  ∀ (i j : Instr), j ∈ expand i →
    (∃ w P, encode j = .word w P ∧ decode (.word w P) = .ok j) ∧ expand j = [j]

/-- A step runs the decoded instruction: the oldest request is taken, and what it decodes to is executed on the block
without that request; the block refuses a request that decodes to nothing; with no request it is idle (R219; logs 1, 2). -/
def Obligations.StepRunsDecodedInstruction : Prop :=
  (∀ (s : State) (r : Request) (rest : List Request) (i : Instr), s.requests = r :: rest → decode r = .ok i →
    WellFormed i → step s = exec i { s with requests := rest }) ∧
  (∀ (s : State) (r : Request) (rest : List Request) (why : Reject), s.requests = r :: rest →
    decode r = .error why → step s = .refused (.notAnOperation why)) ∧
  (∀ s : State, s.requests = [] → step s = .next s)

/-- The host's two questions agree: a table word placed for the next step is run as the instruction it decodes to. -/
def Obligations.FetchedTableWordRuns : Prop :=
  ∀ (s : State) (nbits w : Nat) (i : Instr), decodeTableWord nbits w = some i →
    step (s.withFetchWord nbits w) = exec i s

/-- R214: every operation is available in every state; its meaning always gives a next state, and the requests are not its
concern. -/
def Obligations.EveryInstructionCompletesEverywhere : Prop :=
  ∀ (i : Instr) (s : State), ∃ t, exec i s = .next t ∧ t.requests = s.requests

/-- A step that goes on takes exactly the oldest request. -/
def Obligations.StepTakesOneRequest : Prop :=
  ∀ s t : State, step s = .next t → t.requests = s.requests.tail

/-! ### Invariants and whole-machine rules -/

/-- The invariants hold at power-on. -/
def Obligations.InvariantsHoldAtReset : Prop :=
  State.reset.Inv ∧ State.reset.TxWhole

/-- R30 with R205, R27 and R26: from every state that meets the invariant a step keeps it. -/
def Obligations.StepKeepsInvariant : Prop :=
  ∀ s t : State, s.Inv → step s = .next t → t.Inv

/-- R30, R55: in every state reachable from reset by the operations, whatever they are. -/
def Obligations.ReachableStatesAreLegal : Prop :=
  ∀ (is : List Instr) (t : State), execAll is State.reset = .next t →
    (t.fault = 0 → t.cause = 0) ∧ (t.fault = 1 → t.cause = 1 ∨ t.cause = 2) ∧
    (t.fault = 0 → deframe t.rxbuf = .incomplete) ∧
    (t.fault = 0 → t.rxbuf.length ≤ 3 ∨ (t.rxbuf.getD 0 0 = 0x7E ∧
      t.rxbuf.length ≤ 4 + (u16le (t.rxbuf.getD 2 0) (t.rxbuf.getD 3 0)).toNat)) ∧
    (t.fault = 0 → t.rxbuf.length ≤ 65539) ∧ (t.fault = 1 → t.rxbuf.length ≤ 65540)

/-- R28: `tx_out` stays a sequence of whole frames, each contiguous. -/
def Obligations.StepKeepsTransmitStreamWhole : Prop :=
  ∀ s t : State, s.TxWhole → step s = .next t → t.TxWhole

/-- R209: FAULT is left by RESET alone, which discards the buffer, and no further fault is taken in it; it is entered by a
receiving instruction alone. -/
def Obligations.FaultIsLeftOnlyByReset : Prop :=
  ∀ (i : Instr) (s t : State), exec i s = .next t →
    (s.fault = 1 → t.fault = 0 → i = .reset ∧ t.rxbuf = [] ∧ t.cause = 0) ∧
    (s.fault = 1 → t.fault = 1 → t.cause = s.cause ∧ t.rxbuf = s.rxbuf) ∧
    (s.fault = 0 → t.fault = 1 → Receives i)

/-- R24: from the states of the invariant the cause changes only with the fault flag, in the same step; a cause of 0 is
given only by RESET; it is never 3. -/
def Obligations.CauseChangesOnlyWithFault : Prop :=
  ∀ (i : Instr) (s t : State), s.Inv → exec i s = .next t →
    (t.cause ≠ s.cause → t.fault ≠ s.fault) ∧ (t.cause ≠ s.cause → t.cause = 0 → i = .reset) ∧ t.cause ≠ 3 ∧
    (t.cause = 1 → t.rxbuf.getD 0 0 ≠ 0x7E) ∧
    (t.cause = 2 → t.rxbuf.getD (4 + (t.rxbuf.getD 2 0).toNat + 256 * (t.rxbuf.getD 3 0).toNat) 0 ≠ 0xE7)

/-- R217: the blocks of a system are independent. Under any interleaving each block has run exactly its own steps. The form
is the model's choice (log 12): a system is a list of blocks under a schedule, and a block that refuses its oldest request
stays as it is. -/
def Obligations.BlocksOfASystemAreIndependent : Prop :=
  ∀ (y : System) (schedule : List Nat) (j : Nat),
    (y.run schedule).blocks[j]? = y.blocks[j]?.map (State.advance^[schedule.count j])
end

