-- ==== Sys2Proof/Laws/Operands.lean ====
section
/-! SUPPORT. The small laws of the operand forms: byte sequences, little-endian integers, the layout of a frame. -/

namespace Sys2Proof.Machine

/-! The sizes of R6, as simp reads them. -/

@[simp] theorem HDR_LEN_eq : Config.HDR_LEN = 4 := rfl
@[simp] theorem MAX_PAYLOAD_eq : Config.MAX_PAYLOAD = 65535 := rfl
@[simp] theorem MIN_FRAME_eq : Config.MIN_FRAME = 5 := rfl
@[simp] theorem RXBUF_CAP_eq : Config.RXBUF_CAP = 65540 := rfl
@[simp] theorem PARAM_REQ_LEN_eq : Config.PARAM_REQ_LEN = 2 := rfl
@[simp] theorem PARAM_LEN_eq : Config.PARAM_LEN = 5 := rfl

@[simp] theorem byteAt_cons_zero (b : Byte) (B : List Byte) : byteAt (b :: B) 0 = b := rfl

@[simp] theorem byteAt_cons_succ (b : Byte) (B : List Byte) (i : Nat) : byteAt (b :: B) (i + 1) = byteAt B i := rfl

theorem byteAt_append_left (A B : List Byte) (i : Nat) (h : i < A.length) : byteAt (A ++ B) i = byteAt A i := by
  simp [byteAt, List.getElem?_append_left h]

theorem byteAt_append_self (A : List Byte) (b : Byte) (B : List Byte) : byteAt (A ++ b :: B) A.length = b := by
  simp [byteAt]

theorem slice_append_left (A B : List Byte) (i j : Nat) (h : j ≤ A.length) : slice (A ++ B) i j = slice A i j := by
  by_cases hi : i ≤ j
  · rw [slice, List.drop_append_of_le_length (by omega), List.take_append_of_le_length (by simp; omega)]
    rfl
  · simp [slice, show j - i = 0 by omega]

theorem length_slice (B : List Byte) (i j : Nat) (h : j ≤ B.length) : (slice B i j).length = j - i := by
  simp [slice]; omega

theorem toNat_lo8 (n : Nat) : (lo8 n).toNat = n % 256 := by simp [lo8]

theorem toNat_hi8 (n : Nat) : (hi8 n).toNat = n / 256 % 256 := by simp [hi8, Nat.shiftRight_eq_div_pow]

theorem toNat_u16le (lo hi : Byte) : (u16le lo hi).toNat = lo.toNat + 256 * hi.toNat := by
  have hl : lo.toNat < 2 ^ 8 := lo.isLt
  have hh : hi.toNat < 2 ^ 8 := hi.isLt
  have : lo.toNat ||| hi.toNat <<< 8 = hi.toNat <<< 8 + lo.toNat := by
    rw [Nat.lor_comm, ← Nat.shiftLeft_add_eq_or_of_lt hl]
  simp only [u16le, BitVec.truncate_eq_setWidth, BitVec.toNat_or, BitVec.toNat_shiftLeft, BitVec.toNat_setWidth]
  rw [Nat.mod_eq_of_lt (show lo.toNat < 2 ^ 16 by omega), Nat.mod_eq_of_lt (show hi.toNat < 2 ^ 16 by omega),
    Nat.mod_eq_of_lt (by rw [Nat.shiftLeft_eq]; omega), this, Nat.shiftLeft_eq]
  omega

theorem toNat_u16le_le (lo hi : Byte) : (u16le lo hi).toNat ≤ 65535 := by
  have := (u16le lo hi).isLt
  omega

/-- The length field holds exactly a length that fits it (R142). -/
theorem toNat_u16le_lo8_hi8 (n : Nat) (h : n ≤ 65535) : (u16le (lo8 n) (hi8 n)).toNat = n := by
  rw [toNat_u16le, toNat_lo8, toNat_hi8]; omega

theorem u16le_lo8_hi8_half (h : Half) : u16le (lo8 h.toNat) (hi8 h.toNat) = h := by
  apply BitVec.eq_of_toNat_eq
  rw [toNat_u16le_lo8_hi8 _ (by have := h.isLt; omega)]

theorem lo8_u16le (lo hi : Byte) : lo8 (u16le lo hi).toNat = lo := by
  apply BitVec.eq_of_toNat_eq
  have := lo.isLt
  rw [toNat_lo8, toNat_u16le]; omega

theorem hi8_u16le (lo hi : Byte) : hi8 (u16le lo hi).toNat = hi := by
  apply BitVec.eq_of_toNat_eq
  have := lo.isLt; have := hi.isLt
  rw [toNat_hi8, toNat_u16le]; omega

/-- The one read wider than a byte is the length field (R52). -/
theorem memRead_two (B : List Byte) (a : Nat) :
    memRead B a 2 = (u16le (byteAt B a) (byteAt B (a + 1))).toNat := by
  rw [toNat_u16le]
  simp [memRead, List.range_succ, Nat.shiftLeft_eq]
  omega

@[simp] theorem length_frameBytes (id : Byte) (P : List Byte) (tail : Byte) :
    (frameBytes id P tail).length = 5 + P.length := by
  simp [frameBytes]; omega

@[simp] theorem length_paramPayload (fw : Half) (brk mab rate : Byte) :
    (paramPayload fw brk mab rate).length = 5 := rfl

theorem paramReqPayload_eq : paramReqPayload = [0x00, 0x00] := rfl

@[simp] theorem length_renderPayload (v : List Byte) (sc : Byte) : (renderPayload v sc).length = 1 + v.length := by
  simp [renderPayload]; omega

end Sys2Proof.Machine
end

