-- ==== Sys2Proof/Laws/Codec.lean ====
section
/-! SUPPORT. What decode says of a buffer, in terms of the header it starts with. -/

namespace Sys2Proof.Machine

theorem deframe_short (B : List Byte) (h : B.length < 4) : deframe B = .incomplete := by
  simp [deframe, Config.HDR_LEN, h]

theorem deframe_badStart (b0 b1 b2 b3 : Byte) (rest : List Byte) (h : b0 ≠ Config.SOF) :
    deframe (b0 :: b1 :: b2 :: b3 :: rest) = .err .startSentinel := by
  simp [deframe, Config.HDR_LEN, h]

/-- Once the header is held and starts with SOF, decode depends on the body alone: what follows the header. -/
theorem deframe_header (id lo hi : Byte) (body : List Byte) :
    deframe (Config.SOF :: id :: lo :: hi :: body) =
      if body.length ≤ (u16le lo hi).toNat then .incomplete
      else if byteAt body (u16le lo hi).toNat ≠ Config.EOF then .err .endSentinel
      else .ok ⟨id, body.take (u16le lo hi).toNat⟩ (5 + (u16le lo hi).toNat) := by
  have hL : memRead (Config.SOF :: id :: lo :: hi :: body) 2 2 = (u16le lo hi).toNat := memRead_two _ _
  have hat : ∀ n, byteAt (Config.SOF :: id :: lo :: hi :: body) (4 + n) = byteAt body n := fun n => by
    rw [Nat.add_comm]; rfl
  simp only [deframe, hL, hat, Config.HDR_LEN, List.length_cons]
  rw [if_neg (by omega), if_neg (by simp)]
  by_cases h : body.length ≤ (u16le lo hi).toNat
  · rw [if_pos (by omega), if_pos h]
  · rw [if_neg (by omega), if_neg h]
    simp [slice]

/-- Every buffer is too short, starts badly, or holds a header that starts with SOF. -/
theorem buffer_cases (B : List Byte) :
    B.length < 4 ∨ (∃ b0 b1 b2 b3 rest, B = b0 :: b1 :: b2 :: b3 :: rest ∧ b0 ≠ Config.SOF) ∨
      ∃ id lo hi body, B = Config.SOF :: id :: lo :: hi :: body := by
  match B with
  | [] | [_] | [_, _] | [_, _, _] => left; simp
  | b0 :: b1 :: b2 :: b3 :: rest =>
    by_cases h : b0 = Config.SOF
    · exact .inr (.inr ⟨b1, b2, b3, rest, by rw [h]⟩)
    · exact .inr (.inl ⟨b0, b1, b2, b3, rest, rfl, h⟩)

/-- A successful decode consumes at least the smallest frame and at most the buffer. -/
theorem deframe_ok_consumes {B : List Byte} {p : Packet} {n : Nat} (h : deframe B = .ok p n) :
    5 ≤ n ∧ n ≤ B.length := by
  obtain hB | ⟨_, _, _, _, _, rfl, h0⟩ | ⟨id, lo, hi, body, rfl⟩ := buffer_cases B
  · rw [deframe_short _ hB] at h; cases h
  · rw [deframe_badStart _ _ _ _ _ h0] at h; cases h
  · rw [deframe_header] at h
    split at h
    · cases h
    · split at h
      · cases h
      · cases h
        simp only [List.length_cons]; omega

/-- A packet that one more byte completes is made of everything held (R113). -/
theorem deframe_ok_completes {B : List Byte} {d : Byte} {p : Packet} {n : Nat} (hi : deframe B = .incomplete)
    (h : deframe (B ++ [d]) = .ok p n) : n = B.length + 1 := by
  have hc := deframe_ok_consumes h
  obtain hB | ⟨_, _, _, _, _, rfl, h0⟩ | ⟨id, lo, hi', body, rfl⟩ := buffer_cases B
  · simp at hc; omega
  · rw [deframe_badStart _ _ _ _ _ h0] at hi; cases hi
  · rw [deframe_header] at hi
    rw [show (Config.SOF :: id :: lo :: hi' :: body) ++ [d] = Config.SOF :: id :: lo :: hi' :: (body ++ [d]) from rfl,
      deframe_header] at h
    simp only [List.length_cons, List.length_append, List.length_nil] at *
    split at hi
    · split at h
      · cases h
      · split at h
        · cases h
        · cases h; omega
    · split at hi <;> cases hi

/-- A whole frame in front of anything: emitted if its tail is EOF, else an END error. -/
theorem deframe_frameBytes (id : Byte) (P X : List Byte) (tail : Byte) (h : P.length ≤ 65535) :
    deframe (frameBytes id P tail ++ X) =
      if tail ≠ Config.EOF then .err .endSentinel else .ok ⟨id, P⟩ (5 + P.length) := by
  have hb : frameBytes id P tail ++ X =
      Config.SOF :: id :: lo8 P.length :: hi8 P.length :: (P ++ tail :: X) := by simp [frameBytes]
  rw [hb, deframe_header, toNat_u16le_lo8_hi8 _ h, if_neg (by simp), byteAt_append_self]
  simp

end Sys2Proof.Machine
end

