-- ==== Sys2Proof/Laws/Decode.lean ====
section
/-! SUPPORT. The laws of the rows and of the script's pieces: which header bytes a frame row asks for, the words of the
operation rows, and that the printed forms of a byte and a half word read back. -/

namespace Sys2Proof
open Machine

/-! ### Header words (R74) -/

theorem header_ext {x y : Header} (h3 : x.extractLsb' 24 8 = y.extractLsb' 24 8)
    (h2 : x.extractLsb' 16 8 = y.extractLsb' 16 8) (h1 : x.extractLsb' 8 8 = y.extractLsb' 8 8)
    (h0 : x.extractLsb' 0 8 = y.extractLsb' 0 8) : x = y := by
  apply BitVec.eq_of_toNat_eq
  have hx := x.isLt; have hy := y.isLt
  replace h3 := congrArg BitVec.toNat h3; replace h2 := congrArg BitVec.toNat h2
  replace h1 := congrArg BitVec.toNat h1; replace h0 := congrArg BitVec.toNat h0
  simp only [BitVec.extractLsb'_toNat, Nat.shiftRight_eq_div_pow] at h0 h1 h2 h3
  omega

@[simp] theorem headerWord_byte0 (b0 b1 b2 b3 : Byte) : (headerWord b0 b1 b2 b3).extractLsb' 24 8 = b0 := by
  ext i hi; simp [headerWord]; interval_cases i <;> simp

@[simp] theorem headerWord_byte1 (b0 b1 b2 b3 : Byte) : (headerWord b0 b1 b2 b3).extractLsb' 16 8 = b1 := by
  ext i hi; simp [headerWord]; interval_cases i <;> simp

@[simp] theorem headerWord_byte2 (b0 b1 b2 b3 : Byte) : (headerWord b0 b1 b2 b3).extractLsb' 8 8 = b2 := by
  ext i hi; simp [headerWord]; interval_cases i <;> simp

@[simp] theorem headerWord_byte3 (b0 b1 b2 b3 : Byte) : (headerWord b0 b1 b2 b3).extractLsb' 0 8 = b3 := by
  ext i hi; simp [headerWord]; interval_cases i <;> simp

theorem extract_and (x y : Header) (k : Nat) :
    (x &&& y).extractLsb' k 8 = x.extractLsb' k 8 &&& y.extractLsb' k 8 := by
  ext i hi; simp

/-- A header fits a row when each of its four bytes, under the row's mask, is the row's byte. -/
theorem fits_header (r : Row 32) (b0 b1 b2 b3 : Byte) :
    r.fits (headerWord b0 b1 b2 b3) = true ↔
      b0 &&& r.mask.extractLsb' 24 8 = r.value.extractLsb' 24 8 ∧
      b1 &&& r.mask.extractLsb' 16 8 = r.value.extractLsb' 16 8 ∧
      b2 &&& r.mask.extractLsb' 8 8 = r.value.extractLsb' 8 8 ∧
      b3 &&& r.mask.extractLsb' 0 8 = r.value.extractLsb' 0 8 := by
  simp only [Row.fits, beq_iff_eq]
  constructor
  · intro h
    refine ⟨?_, ?_, ?_, ?_⟩ <;> rw [← h, extract_and] <;> simp
  · rintro ⟨h0, h1, h2, h3⟩
    apply header_ext <;> rw [extract_and] <;> simpa

theorem and_allOnes_byte (b : Byte) : b &&& 0xFF#8 = b := by revert b; decide

@[simp] theorem frameRow_fits (b0 b1 b2 b3 : Byte) :
    frameRow.fits (headerWord b0 b1 b2 b3) = true ↔ b0 = 0x7E := by
  rw [fits_header]; simp [frameRow, and_allOnes_byte, Config.SOF]

@[simp] theorem frameRenderRow_fits (b0 b1 b2 b3 : Byte) :
    frameRenderRow.fits (headerWord b0 b1 b2 b3) = true ↔ b0 = 0x7E ∧ b1 = 6 := by
  rw [fits_header]; simp [frameRenderRow, and_allOnes_byte, Config.SOF, Config.ID_RENDER]

/-- The row of one header asks for each of its four bytes. -/
theorem exactHeaderRow_fits (id : Byte) (L : Nat) (b0 b1 b2 b3 : Byte) :
    (exactHeaderRow id L).fits (headerWord b0 b1 b2 b3) = true ↔
      b0 = Config.SOF ∧ b1 = id ∧ b2 = lo8 L ∧ b3 = hi8 L := by
  rw [fits_header]; simp [exactHeaderRow, and_allOnes_byte]

@[simp] theorem frameParamReqRow_fits (b0 b1 b2 b3 : Byte) :
    frameParamReqRow.fits (headerWord b0 b1 b2 b3) = true ↔ b0 = 0x7E ∧ b1 = 3 ∧ b2 = 2 ∧ b3 = 0 := by
  exact exactHeaderRow_fits _ _ _ _ _ _

@[simp] theorem frameParamRespRow_fits (b0 b1 b2 b3 : Byte) :
    frameParamRespRow.fits (headerWord b0 b1 b2 b3) = true ↔ b0 = 0x7E ∧ b1 = 3 ∧ b2 = 5 ∧ b3 = 0 := by
  exact exactHeaderRow_fits _ _ _ _ _ _

@[simp] theorem frameConfigRow_fits (b0 b1 b2 b3 : Byte) :
    frameConfigRow.fits (headerWord b0 b1 b2 b3) = true ↔ b0 = 0x7E ∧ b1 = 4 ∧ b2 = 5 ∧ b3 = 0 := by
  exact exactHeaderRow_fits _ _ _ _ _ _

theorem splitBody_eq_some {L : Nat} {body P : List Byte} {tail : Byte} :
    splitBody L body = some (P, tail) ↔ body = P ++ [tail] ∧ P.length = L := by
  constructor
  · intro h
    unfold splitBody at h
    split at h
    · rename_i t ht
      cases h
      have hl := congrArg List.length ht
      simp at hl
      exact ⟨by rw [← ht, List.take_append_drop], by simp; omega⟩
    · cases h
  · rintro ⟨rfl, rfl⟩
    simp [splitBody]

/-! ### Operation words (R81) -/

theorem opField_opWord (op : BitVec 3) (data : Byte) : opField (opWord op data) = op := by
  revert op data; decide

theorem dataField_opWord (op : BitVec 3) (data : Byte) : dataField (opWord op data) = data := by
  revert op data; decide

theorem opWord_fields (w : OpWord) : opWord (opField w) (dataField w) = w := by
  revert w; decide

/-- Which words fit the four rows, by OP and DATA. -/
theorem opRows_fit (w : OpWord) :
    (rxByteRow.fits w = decide (opField w = 1)) ∧ (txFrameRow.fits w = decide (opField w = 2)) ∧
      (statusRdRow.fits w = decide (opField w = 3 ∧ dataField w = 0)) ∧
      (resetRow.fits w = decide (opField w = 4 ∧ dataField w = 0)) := by
  revert w; decide

/-! ### Script pieces (R83) -/

/-- A character that stands inside a piece: no separator, bracket or comment mark. -/
def pieceChar (c : Char) : Bool := c ≠ ';' && c ≠ ' ' && c ≠ ',' && c ≠ '[' && c ≠ ']'

/-- The lexer collects the characters of a piece. -/
theorem lexFrom_piece (cs : List Char) (hcs : ∀ c ∈ cs, pieceChar c = true) (piece rest : List Char) :
    lexFrom piece (cs ++ rest) = lexFrom (piece ++ cs) rest := by
  induction cs generalizing piece with
  | nil => simp
  | cons c cs ih =>
    have hc := hcs c (by simp)
    simp only [pieceChar, ne_eq, decide_not, Bool.and_eq_true, Bool.not_eq_eq_eq_not, Bool.not_true,
      decide_eq_false_iff_not] at hc
    rw [List.cons_append, lexFrom, if_neg hc.1.1.1.1, if_neg hc.1.1.1.2, if_neg hc.1.1.2, if_neg hc.1.2, if_neg hc.2,
      ih (fun d hd => hcs d (by simp [hd]))]
    simp

theorem byteHex_pieceChar (b : Byte) : ∀ c ∈ byteHex b, pieceChar c = true := by
  have : (byteHex b).all pieceChar = true := by revert b; decide
  exact List.all_eq_true.mp this

theorem byteHex_ne_nil (b : Byte) : byteHex b ≠ [] := by simp [byteHex]

theorem byteOperand_byteHex (b : Byte) : byteOperand (byteHex b) = some b := by
  revert b; decide

theorem byteOperand_0x (b : Byte) : byteOperand ('0' :: 'x' :: byteHex b) = some b := by
  revert b; decide

theorem byteRun_byteHex (b : Byte) : byteRun (byteHex b) = some [b] := by
  revert b; decide

theorem numberOperand_byte (b : Byte) : numberOperand 8 ('0' :: 'x' :: byteHex b) = some b := by
  revert b; decide

theorem numeralFrom_byteHex (b : Byte) (n : Nat) (rest : List Char) :
    numeralFrom 16 n (byteHex b ++ rest) = numeralFrom 16 (256 * n + b.toNat) rest := by
  have h : ∀ d < 16, digitValue (hexDigit d) = some d := by decide
  have hb := b.isLt
  simp only [byteHex, List.cons_append, List.nil_append, numeralFrom, h _ (show b.toNat / 16 < 16 by omega),
    h _ (show b.toNat % 16 < 16 by omega)]
  rw [if_pos (by omega), if_pos (by omega)]
  congr 1; omega

theorem numberOperand_half (h : Half) : numberOperand 16 ('0' :: 'x' :: halfHex h) = some h := by
  have hl := h.isLt
  have : numeral 16 (halfHex h) = some h.toNat := by
    have hne : halfHex h ≠ [] := by simp [halfHex, byteHex]
    have := numeralFrom_byteHex (hi8 h.toNat) 0 (byteHex (lo8 h.toNat) ++ [])
    rw [numeral, if_neg hne, halfHex]
    rw [List.append_nil] at this
    rw [this, ← List.append_nil (byteHex (lo8 h.toNat)), numeralFrom_byteHex, numeralFrom, toNat_hi8, toNat_lo8]
    congr 1; omega
  simp only [numberOperand, hexDigits?, this, Option.bind_some, sized, if_pos hl]
  simp

end Sys2Proof
end

