-- ==== Sys2Proof/Laws/State.lean ====
section
/-! SUPPORT. The fields of a state after each primitive operation, one lemma a field (simp set), so that no later proof
unfolds a record update. -/

namespace Sys2Proof.Machine

variable (s : State)

@[simp] theorem bufAppend_rxbuf (b : Byte) : (bufAppend b s).rxbuf = s.rxbuf ++ [b] := rfl
@[simp] theorem bufAppend_fault (b : Byte) : (bufAppend b s).fault = s.fault := rfl
@[simp] theorem bufAppend_cause (b : Byte) : (bufAppend b s).cause = s.cause := rfl
@[simp] theorem bufAppend_pktOut (b : Byte) : (bufAppend b s).pktOut = s.pktOut := rfl
@[simp] theorem bufAppend_txOut (b : Byte) : (bufAppend b s).txOut = s.txOut := rfl
@[simp] theorem bufAppend_responses (b : Byte) : (bufAppend b s).responses = s.responses := rfl
@[simp] theorem bufAppend_requests (b : Byte) : (bufAppend b s).requests = s.requests := rfl

@[simp] theorem bufConsume_rxbuf (n : Nat) : (bufConsume n s).rxbuf = s.rxbuf.drop n := rfl
@[simp] theorem bufConsume_fault (n : Nat) : (bufConsume n s).fault = s.fault := rfl
@[simp] theorem bufConsume_cause (n : Nat) : (bufConsume n s).cause = s.cause := rfl
@[simp] theorem bufConsume_pktOut (n : Nat) : (bufConsume n s).pktOut = s.pktOut := rfl
@[simp] theorem bufConsume_txOut (n : Nat) : (bufConsume n s).txOut = s.txOut := rfl
@[simp] theorem bufConsume_responses (n : Nat) : (bufConsume n s).responses = s.responses := rfl
@[simp] theorem bufConsume_requests (n : Nat) : (bufConsume n s).requests = s.requests := rfl

@[simp] theorem emitPkt_rxbuf (p : Packet) : (emitPkt p s).rxbuf = s.rxbuf := rfl
@[simp] theorem emitPkt_fault (p : Packet) : (emitPkt p s).fault = s.fault := rfl
@[simp] theorem emitPkt_cause (p : Packet) : (emitPkt p s).cause = s.cause := rfl
@[simp] theorem emitPkt_pktOut (p : Packet) : (emitPkt p s).pktOut = s.pktOut ++ [p] := rfl
@[simp] theorem emitPkt_txOut (p : Packet) : (emitPkt p s).txOut = s.txOut := rfl
@[simp] theorem emitPkt_responses (p : Packet) : (emitPkt p s).responses = s.responses := rfl
@[simp] theorem emitPkt_requests (p : Packet) : (emitPkt p s).requests = s.requests := rfl

@[simp] theorem emitTx_rxbuf (bytes : List Byte) : (emitTx bytes s).rxbuf = s.rxbuf := rfl
@[simp] theorem emitTx_fault (bytes : List Byte) : (emitTx bytes s).fault = s.fault := rfl
@[simp] theorem emitTx_cause (bytes : List Byte) : (emitTx bytes s).cause = s.cause := rfl
@[simp] theorem emitTx_pktOut (bytes : List Byte) : (emitTx bytes s).pktOut = s.pktOut := rfl
@[simp] theorem emitTx_txOut (bytes : List Byte) : (emitTx bytes s).txOut = s.txOut ++ bytes := rfl
@[simp] theorem emitTx_responses (bytes : List Byte) : (emitTx bytes s).responses = s.responses := rfl
@[simp] theorem emitTx_requests (bytes : List Byte) : (emitTx bytes s).requests = s.requests := rfl

@[simp] theorem respond_rxbuf (v : Response) : (respond v s).rxbuf = s.rxbuf := rfl
@[simp] theorem respond_fault (v : Response) : (respond v s).fault = s.fault := rfl
@[simp] theorem respond_cause (v : Response) : (respond v s).cause = s.cause := rfl
@[simp] theorem respond_pktOut (v : Response) : (respond v s).pktOut = s.pktOut := rfl
@[simp] theorem respond_txOut (v : Response) : (respond v s).txOut = s.txOut := rfl
@[simp] theorem respond_responses (v : Response) : (respond v s).responses = s.responses ++ [v] := rfl
@[simp] theorem respond_requests (v : Response) : (respond v s).requests = s.requests := rfl

@[simp] theorem raiseFramingError_rxbuf (k : FramingCause) : (raiseFramingError k s).rxbuf = s.rxbuf := rfl
@[simp] theorem raiseFramingError_fault (k : FramingCause) : (raiseFramingError k s).fault = 1 := rfl
@[simp] theorem raiseFramingError_cause (k : FramingCause) : (raiseFramingError k s).cause = k.code := rfl
@[simp] theorem raiseFramingError_pktOut (k : FramingCause) : (raiseFramingError k s).pktOut = s.pktOut := rfl
@[simp] theorem raiseFramingError_txOut (k : FramingCause) : (raiseFramingError k s).txOut = s.txOut := rfl
@[simp] theorem raiseFramingError_responses (k : FramingCause) : (raiseFramingError k s).responses = s.responses := rfl
@[simp] theorem raiseFramingError_requests (k : FramingCause) : (raiseFramingError k s).requests = s.requests := rfl

@[simp] theorem clearReceivePath_rxbuf : (clearReceivePath s).rxbuf = [] := rfl
@[simp] theorem clearReceivePath_fault : (clearReceivePath s).fault = 0 := rfl
@[simp] theorem clearReceivePath_cause : (clearReceivePath s).cause = 0 := rfl
@[simp] theorem clearReceivePath_pktOut : (clearReceivePath s).pktOut = s.pktOut := rfl
@[simp] theorem clearReceivePath_txOut : (clearReceivePath s).txOut = s.txOut := rfl
@[simp] theorem clearReceivePath_responses : (clearReceivePath s).responses = s.responses := rfl
@[simp] theorem clearReceivePath_requests : (clearReceivePath s).requests = s.requests := rfl

end Sys2Proof.Machine
end

