-- ==== Sys2Proof/Laws/Receive.lean ====
section
/-! SUPPORT. What the receive path can do: the loop equation of drain, the one-step forms of receiving a byte, and the
laws of receiving a sequence. -/

namespace Sys2Proof.Machine

/-- More fuel than buffered bytes is enough, whatever the amount. -/
theorem drainLoop_enough (f g : Nat) (s : State) (hf : s.rxbuf.length < f) (hg : s.rxbuf.length < g) :
    drainLoop f s = drainLoop g s := by
  induction f generalizing g s with
  | zero => omega
  | succ f ih =>
    cases g with
    | zero => omega
    | succ g =>
      simp only [drainLoop]
      cases hd : deframe s.rxbuf with
      | incomplete => rfl
      | err k => rfl
      | ok p n =>
        have := deframe_ok_consumes hd
        exact ih _ _ (by simp; omega) (by simp; omega)

/-- The loop of `drain()` as R110 writes it: the fuel never runs out. -/
theorem drain_eq (s : State) :
    drain s = match deframe s.rxbuf with
      | .incomplete => s
      | .ok p n => drain (bufConsume n (emitPkt p s))
      | .err k => raiseFramingError k s := by
  rw [drain, drainLoop]
  cases hd : deframe s.rxbuf with
  | incomplete => rfl
  | err k => rfl
  | ok p n =>
    have := deframe_ok_consumes hd
    exact drainLoop_enough _ _ _ (by simp; omega) (by simp)

theorem drain_incomplete {s : State} (h : deframe s.rxbuf = .incomplete) : drain s = s := by
  rw [drain_eq, h]

theorem drain_err {s : State} {k : FramingCause} (h : deframe s.rxbuf = .err k) :
    drain s = raiseFramingError k s := by
  rw [drain_eq, h]

theorem drain_ok {s : State} {p : Packet} {n : Nat} (h : deframe s.rxbuf = .ok p n) :
    drain s = drain (bufConsume n (emitPkt p s)) := by
  rw [drain_eq, h]

theorem receiveByte_fault {s : State} (h : s.fault = 1) (d : Byte) : receiveByte d s = s := by
  simp [receiveByte, h]

theorem receiveByte_running {s : State} (h : s.fault = 0) (d : Byte) : receiveByte d s = drain (bufAppend d s) := by
  simp [receiveByte, h]

/-- `S.fault` is one bit. -/
theorem fault_cases (s : State) : s.fault = 0 ∨ s.fault = 1 := by
  generalize s.fault = f
  revert f; decide

/-- What draining leaves alone: the transmit side and the requests (R58, R143). -/
theorem drainLoop_leaves (fuel : Nat) (s : State) :
    (drainLoop fuel s).txOut = s.txOut ∧ (drainLoop fuel s).responses = s.responses ∧
      (drainLoop fuel s).requests = s.requests := by
  induction fuel generalizing s with
  | zero => simp [drainLoop]
  | succ f ih =>
    rw [drainLoop]
    cases deframe s.rxbuf with
    | incomplete => simp
    | err k => simp
    | ok p n => simpa using ih (bufConsume n (emitPkt p s))

/-- Draining only appends to `pkt_out` (R27). -/
theorem drainLoop_appends (fuel : Nat) (s : State) : s.pktOut <+: (drainLoop fuel s).pktOut := by
  induction fuel generalizing s with
  | zero => simp [drainLoop]
  | succ f ih =>
    rw [drainLoop]
    cases deframe s.rxbuf with
    | incomplete => simp
    | err k => simp
    | ok p n => exact (List.prefix_append s.pktOut [p]).trans (by simpa using ih (bufConsume n (emitPkt p s)))

theorem receiveByte_leaves (d : Byte) (s : State) :
    (receiveByte d s).txOut = s.txOut ∧ (receiveByte d s).responses = s.responses ∧
      (receiveByte d s).requests = s.requests := by
  rw [receiveByte]
  split
  · simp
  · exact drainLoop_leaves _ (bufAppend d s)

theorem receiveByte_appends (d : Byte) (s : State) : s.pktOut <+: (receiveByte d s).pktOut := by
  rw [receiveByte]
  split
  · simp
  · exact drainLoop_appends _ (bufAppend d s)

/-- All that receiving a byte can do to a running block whose buffer holds no complete frame: append it, take a
FramingError with it, or emit the whole buffer as one packet (R110, R113). -/
theorem receiveByte_cases (s : State) (d : Byte) (hi : deframe s.rxbuf = .incomplete) (h : s.fault = 0) :
    (deframe (s.rxbuf ++ [d]) = .incomplete ∧ receiveByte d s = bufAppend d s) ∨
    (∃ k, deframe (s.rxbuf ++ [d]) = .err k ∧ receiveByte d s = raiseFramingError k (bufAppend d s)) ∨
    (∃ p, deframe (s.rxbuf ++ [d]) = .ok p (s.rxbuf.length + 1) ∧
      receiveByte d s = { s with rxbuf := [], pktOut := s.pktOut ++ [p] }) := by
  cases hd : deframe (s.rxbuf ++ [d]) with
  | incomplete => exact .inl ⟨rfl, by rw [receiveByte_running h, drain_incomplete (by simpa using hd)]⟩
  | err k => exact .inr (.inl ⟨k, rfl, by rw [receiveByte_running h, drain_err (by simpa using hd)]⟩)
  | ok p n =>
    obtain rfl := deframe_ok_completes hi hd
    refine .inr (.inr ⟨p, rfl, ?_⟩)
    rw [receiveByte_running h, drain_ok (p := p) (n := s.rxbuf.length + 1) (by simpa using hd), drain_incomplete]
    · simp [bufConsume, emitPkt, bufAppend]
    · exact deframe_short _ (by simp)

@[simp] theorem receive_nil (s : State) : receive [] s = s := rfl

@[simp] theorem receive_cons (d : Byte) (ds : List Byte) (s : State) :
    receive (d :: ds) s = receive ds (receiveByte d s) := rfl

theorem receive_append (as bs : List Byte) (s : State) : receive (as ++ bs) s = receive bs (receive as s) := by
  simp [receive]

theorem receive_leaves (ds : List Byte) (s : State) :
    (receive ds s).txOut = s.txOut ∧ (receive ds s).responses = s.responses ∧
      (receive ds s).requests = s.requests := by
  induction ds generalizing s with
  | nil => simp
  | cons d ds ih =>
    have h := receiveByte_leaves d s
    rw [receive_cons, (ih _).1, (ih _).2.1, (ih _).2.2]
    exact h

theorem receive_appends (ds : List Byte) (s : State) : s.pktOut <+: (receive ds s).pktOut := by
  induction ds generalizing s with
  | nil => simp
  | cons d ds ih => exact (receiveByte_appends d s).trans (ih _)

theorem receive_fault {s : State} (h : s.fault = 1) (ds : List Byte) : receive ds s = s := by
  induction ds with
  | nil => rfl
  | cons d ds ih => rw [receive_cons, receiveByte_fault h, ih]

end Sys2Proof.Machine
end

