-- ==== Sys2Proof/Laws/Transmit.lean ====
section
/-! SUPPORT. What the transmit path can do: one of two cases, by the payload's length. -/

namespace Sys2Proof.Machine

theorem enframe_fits (id : Byte) (P : List Byte) (h : P.length ≤ 65535) :
    enframe id P = .ok (frameBytes id P Config.EOF) := by
  simp [enframe, Config.MAX_PAYLOAD]; omega

theorem enframe_tooLarge (id : Byte) (P : List Byte) (h : 65535 < P.length) : enframe id P = .payloadTooLarge := by
  simp [enframe, Config.MAX_PAYLOAD]; omega

theorem transmit_fits (id : Byte) (P : List Byte) (s : State) (h : P.length ≤ 65535) :
    transmit id P s = respond (.txResult 0) (emitTx (frameBytes id P Config.EOF) s) := by
  simp [transmit, enframe_fits id P h, txResultOk]

theorem transmit_tooLarge (id : Byte) (P : List Byte) (s : State) (h : 65535 < P.length) :
    transmit id P s = respond (.txResult 1) s := by
  simp [transmit, enframe_tooLarge id P h, raisePayloadTooLarge, txResultTooLarge]

/-- All a transmit request can do (R141, R206). -/
theorem transmit_cases (id : Byte) (P : List Byte) (s : State) :
    (P.length ≤ 65535 ∧
      transmit id P s = respond (.txResult 0) (emitTx (frameBytes id P Config.EOF) s)) ∨
    (65535 < P.length ∧ transmit id P s = respond (.txResult 1) s) := by
  by_cases h : P.length ≤ 65535
  · exact .inl ⟨h, transmit_fits id P s h⟩
  · exact .inr ⟨by omega, transmit_tooLarge id P s (by omega)⟩

end Sys2Proof.Machine
end

