-- ==== Sys2Proof/Laws/Exec.lean ====
section
/-! SUPPORT. What an instruction and a step can do, said once: an instruction receives bytes, transmits one frame, reads
STATUS or resets; a step is idle or runs the oldest request. -/

namespace Sys2Proof.Machine

/-- An instruction that receives delivers some bytes, the same in every state. -/
theorem exec_receives {i : Instr} (h : Receives i = true) : ∃ c, ∀ s, exec i s = .next (receive c s) := by
  cases i <;> simp only [Receives, Bool.false_eq_true] at h
  case rxByte d => exact ⟨[d], fun _ => rfl⟩
  all_goals exact ⟨_, fun _ => rfl⟩

/-- An instruction that transmits requests some frame, the same in every state. -/
theorem exec_transmits {i : Instr} (h : Transmits i = true) : ∃ id P, ∀ s, exec i s = .next (transmit id P s) := by
  cases i <;> simp only [Transmits, Bool.false_eq_true] at h <;> exact ⟨_, _, fun _ => rfl⟩

/-- The kinds of instruction. -/
theorem instr_cases (i : Instr) : Receives i = true ∨ Transmits i = true ∨ i = .statusRd ∨ i = .reset := by
  cases i <;> simp [Receives, Transmits]

/-- All an instruction can do. -/
theorem exec_cases {i : Instr} {s t : State} (h : exec i s = .next t) :
    (Receives i = true ∧ ∃ c, t = receive c s) ∨ (Transmits i = true ∧ ∃ id P, t = transmit id P s) ∨
      (i = .statusRd ∧ t = respond (.status (statusWord s)) s) ∨ (i = .reset ∧ t = clearReceivePath s) := by
  rcases instr_cases i with hi | hi | rfl | rfl
  · obtain ⟨c, hc⟩ := exec_receives hi
    rw [hc] at h; cases h
    exact .inl ⟨hi, c, rfl⟩
  · obtain ⟨id, P, hP⟩ := exec_transmits hi
    rw [hP] at h; cases h
    exact .inr (.inl ⟨hi, id, P, rfl⟩)
  · cases h; exact .inr (.inr (.inl ⟨rfl, rfl⟩))
  · cases h; exact .inr (.inr (.inr ⟨rfl, rfl⟩))

/-- All a step that goes on can do. -/
theorem step_cases {s t : State} (h : step s = .next t) :
    (s.requests = [] ∧ t = s) ∨
      ∃ r rest i, s.requests = r :: rest ∧ decode r = .ok i ∧ exec i { s with requests := rest } = .next t := by
  unfold step at h
  split at h
  · cases h; exact .inl ⟨by assumption, rfl⟩
  · split at h
    · exact .inr ⟨_, _, _, by assumption, by assumption, h⟩
    · cases h

end Sys2Proof.Machine
end

