-- ==== Sys2Proof/Laws/PerInstr.lean ====
section
/-! SUPPORT. The laws made one lemma a constructor. Family `RowFits`: the request that presents an instruction stands under
the instruction's own row of the opcode table (spec/30_encoding.md R74, R81, R84), or, for a pseudo-operation, begins with
its mnemonic (R83). -/

namespace Sys2Proof.Laws.RowFits
open Sys2Proof Sys2Proof.Machine

/-- The operation word of a request. -/
def wordOf : Request → OpWord
  | .word w _ => w
  | .wire _ => 0
  | .line _ => 0

/-- The header word of the bytes of a request. -/
def headerOf : Request → Header
  | .wire (b0 :: b1 :: b2 :: b3 :: _) => headerWord b0 b1 b2 b3
  | .wire _ => 0
  | .word _ _ => 0
  | .line _ => 0

/-- The text of a request. -/
def textOf : Request → List Char
  | .line text => text
  | .word _ _ => []
  | .wire _ => []

def Statement : Instr → Prop
  | .rxByte d => rxByteRow.fits (wordOf (encode (.rxByte d))) = true
  | .txFrame id P => txFrameRow.fits (wordOf (encode (.txFrame id P))) = true
  | .statusRd => statusRdRow.fits (wordOf (encode .statusRd)) = true
  | .reset => resetRow.fits (wordOf (encode .reset)) = true
  | .rxChunk c => kwRxChunk <+: textOf (encode (.rxChunk c))
  | .paramReq => kwParamReq <+: textOf (encode .paramReq)
  | .configure fw brk mab rate => kwConfigure <+: textOf (encode (.configure fw brk mab rate))
  | .render v sc => kwRender <+: textOf (encode (.render v sc))
  | .frame id P tail => frameRow.fits (headerOf (encode (.frame id P tail))) = true
  | .frameParamReq p0 p1 tail => frameParamReqRow.fits (headerOf (encode (.frameParamReq p0 p1 tail))) = true
  | .frameParamResp fw brk mab rate tail =>
    frameParamRespRow.fits (headerOf (encode (.frameParamResp fw brk mab rate tail))) = true
  | .frameConfig fw brk mab rate tail =>
    frameConfigRow.fits (headerOf (encode (.frameConfig fw brk mab rate tail))) = true
  | .frameRender P tail => frameRenderRow.fits (headerOf (encode (.frameRender P tail))) = true

theorem rxByte (d : Byte) : Statement (.rxByte d) := by
  simp only [Statement, encode, wordOf, (opRows_fit _).1, opField_opWord, decide_true]

theorem txFrame (id : Byte) (P : List Byte) : Statement (.txFrame id P) := by
  simp only [Statement, encode, wordOf, (opRows_fit _).2.1, opField_opWord, decide_true]

theorem statusRd : Statement .statusRd := by
  simp only [Statement]; decide

theorem reset : Statement .reset := by
  simp only [Statement]; decide

theorem rxChunk (c : List Byte) : Statement (.rxChunk c) := List.prefix_append _ _

theorem paramReq : Statement .paramReq := List.prefix_refl _

theorem configure (fw : Half) (brk mab rate : Byte) : Statement (.configure fw brk mab rate) := by
  simp [Statement, encode, textOf, configureLine]

theorem render (v : List Byte) (sc : Byte) : Statement (.render v sc) := by
  simp [Statement, encode, textOf, renderLine]

theorem frame (id : Byte) (P : List Byte) (tail : Byte) : Statement (.frame id P tail) := by
  simp [Statement, encode, headerOf, frameBytes, Config.SOF]

theorem frameParamReq (p0 p1 tail : Byte) : Statement (.frameParamReq p0 p1 tail) := by
  simp only [Statement, encode, headerOf, frameBytes, List.cons_append, frameParamReqRow_fits]
  exact ⟨rfl, rfl, rfl, by simp; decide⟩

theorem frameParamResp (fw : Half) (brk mab rate tail : Byte) : Statement (.frameParamResp fw brk mab rate tail) := by
  simp only [Statement, encode, headerOf, frameBytes, List.cons_append, frameParamRespRow_fits]
  exact ⟨rfl, rfl, rfl, by simp; decide⟩

theorem frameConfig (fw : Half) (brk mab rate tail : Byte) : Statement (.frameConfig fw brk mab rate tail) := by
  simp only [Statement, encode, headerOf, frameBytes, List.cons_append, frameConfigRow_fits]
  exact ⟨rfl, rfl, rfl, by simp; decide⟩

theorem frameRender (P : List Byte) (tail : Byte) : Statement (.frameRender P tail) := by
  simp [Statement, encode, headerOf, frameBytes, Config.SOF, Config.ID_RENDER]

end Sys2Proof.Laws.RowFits
end

