-- ==== Sys2Proof/Tests/Slice0.lean ====
section
/-! SUPPORT. The model's own tests. Expected results are the spec's own: the encodings of spec/30_encoding.md written out,
and the worked examples and vectors of spec/95_test_vectors.md (named V-…, P…, W… as there). Then, for every statement that
has hypotheses, a state and operands that meet them. -/

namespace Sys2Proof.Tests
open Sys2Proof Sys2Proof.Machine

/-- A running block with these bytes buffered. -/
def holding (bytes : List Byte) : State := { State.reset with rxbuf := bytes }

/-- A block in FAULT with this cause and these bytes buffered. -/
def faulted (cause : BitVec 2) (bytes : List Byte) : State := { holding bytes with fault := 1, cause := cause }

/-- A block with one operation presented. -/
def presented (r : Request) : State := { State.reset with requests := [r] }

/-- `b^n` of R7. -/
def copies (n : Nat) (b : Byte) : List Byte := List.replicate n b

@[simp] theorem length_copies (n : Nat) (b : Byte) : (copies n b).length = n := List.length_replicate

/-- The next state of an outcome. -/
def next? : Host.Outcome State Fault Refusal → Option State
  | .next t => some t
  | .fault _ => none
  | .refused _ => none

/-! ### WellFormed refuses each ill-formed term -/

theorem test_wf_frame_too_long : WellFormed (.frame 9 (copies 65536 0xAA) 0xE7) = false := by
  simp [WellFormed, payloadFits, Config.MAX_PAYLOAD]

theorem test_wf_render_frame_too_long : WellFormed (.frameRender (copies 65536 0) 0xE7) = false := by
  simp [WellFormed, payloadFits, Config.MAX_PAYLOAD]

theorem test_wf_longest_frame : WellFormed (.frame 9 (copies 65535 0xAA) 0xE7) = true := by
  simp [WellFormed, payloadFits, namedHeader, Config.MAX_PAYLOAD, Config.ID_PARAM, Config.ID_CONFIG, Config.ID_RENDER]

theorem test_wf_param_req_header : WellFormed (.frame 3 [0, 0] 0xE7) = false := by decide
theorem test_wf_param_resp_header : WellFormed (.frame 3 [0, 0, 0, 0, 0] 0xE7) = false := by decide
theorem test_wf_config_header : WellFormed (.frame 4 [0, 0, 0, 0, 0] 0xE7) = false := by decide
theorem test_wf_render_header : WellFormed (.frame 6 [0] 0xE7) = false := by decide
/-- R84: the render row asks for L of at least 1. -/
theorem test_wf_empty_render_frame : WellFormed (.frameRender [] 0xE7) = false := by decide
theorem test_wf_empty_render_is_plain_frame : WellFormed (.frame 6 [] 0xE7) = true := by decide
theorem test_wf_other_length_is_plain_frame : WellFormed (.frame 3 [0] 0xE7) = true := by decide

/-! ### Decoding: words written out from R81, frames from R71, lines from R83 -/

theorem test_decode_rx_byte : decode (.word 0b00101111110 []) = .ok (.rxByte 0x7E) := by decide
theorem test_decode_tx_frame : decode (.word 0b01000000011 [0, 0]) = .ok (.txFrame 3 [0, 0]) := by decide
theorem test_decode_status_rd : decode (.word 0b01100000000 []) = .ok .statusRd := by decide
theorem test_decode_reset : decode (.word 0b10000000000 []) = .ok .reset := by decide

theorem test_decode_frame : decode (.wire [0x7E, 0x10, 0x00, 0x00, 0xE7]) = .ok (.frame 0x10 [] 0xE7) := by decide
theorem test_decode_frame_bad_end :
    decode (.wire [0x7E, 0x01, 0x01, 0x00, 0xAA, 0xBB]) = .ok (.frame 1 [0xAA] 0xBB) := by decide
theorem test_decode_frame_param_req :
    decode (.wire [0x7E, 0x03, 0x02, 0x00, 0x00, 0x00, 0xE7]) = .ok (.frameParamReq 0 0 0xE7) := by decide
theorem test_decode_frame_param_resp :
    decode (.wire [0x7E, 0x03, 0x05, 0x00, 0x34, 0x12, 0x09, 0x01, 0x28, 0xE7]) =
      .ok (.frameParamResp 0x1234 9 1 40 0xE7) := by decide
theorem test_decode_frame_config :
    decode (.wire [0x7E, 0x04, 0x05, 0x00, 0x34, 0x12, 0x09, 0x01, 0x28, 0xE7]) =
      .ok (.frameConfig 0x1234 9 1 40 0xE7) := by decide
theorem test_decode_frame_render :
    decode (.wire [0x7E, 0x06, 0x03, 0x00, 0xCC, 0xFF, 0x80, 0xE7]) =
      .ok (.frameRender [0xCC, 0xFF, 0x80] 0xE7) := by decide
/-- R84: `7E 06 xx xx` with L of at least 1 is the render row, with L = 0 a frame like any other. -/
theorem test_decode_frame_render_boundary :
    decode (.wire [0x7E, 0x06, 0x01, 0x00, 0xCC, 0xE7]) = .ok (.frameRender [0xCC] 0xE7) ∧
      decode (.wire [0x7E, 0x06, 0x00, 0x00, 0xE7]) = .ok (.frame 6 [] 0xE7) := by decide
/-- Bytes that are no whole frame, and a header that matches no row. -/
theorem test_decode_partial_frame : decode (.wire [0x7E, 0x04]) = .ok (.rxChunk [0x7E, 0x04]) := by decide
theorem test_decode_bad_start : decode (.wire [0, 1, 2, 3]) = .ok (.rxChunk [0, 1, 2, 3]) := by decide

theorem test_line_rx_byte : decode (.line "RX_BYTE 7E".toList) = .ok (.rxByte 0x7E) := by decide
theorem test_line_tx_frame : decode (.line "TX_FRAME 0x10, []".toList) = .ok (.txFrame 0x10 []) := by decide
theorem test_line_rx_chunk :
    decode (.line "RX_CHUNK 7E 03 02 00 00 00 E7".toList) =
      .ok (.rxChunk [0x7E, 0x03, 0x02, 0x00, 0x00, 0x00, 0xE7]) := by decide
theorem test_line_param_req : decode (.line "PARAM_REQ ; identifier 3".toList) = .ok .paramReq := by decide
theorem test_line_configure :
    decode (.line "CONFIGURE 0x1234, 9, 1, 40".toList) = .ok (.configure 0x1234 9 1 40) := by decide
theorem test_line_render : decode (.line "RENDER [FF 80], 0xCC".toList) = .ok (.render [0xFF, 0x80] 0xCC) := by decide
theorem test_line_render_default :
    decode (.line "RENDER [00^24]".toList) = .ok (.render (List.replicate 24 0) 0) := by decide
theorem test_line_not_an_operation :
    decode (.line "CONFIGURE 65536, 9, 1, 40".toList) =
      .error (.malformedLine "CONFIGURE 65536, 9, 1, 40".toList) := by decide

/-- V-C6. -/
theorem test_reserved_words :
    decode (.word 0x000 []) = .error (.reservedOp 0x000) ∧ decode (.word 0x500 []) = .error (.reservedOp 0x500) ∧
      decode (.word 0x301 []) = .error (.reservedData 0x301) ∧
      decode (.word 0x4FF []) = .error (.reservedData 0x4FF) := by decide

theorem test_stray_payload : decode (.word 0x300 [0]) = .error (.strayPayload 0x300) := by decide

/-- The frame rows have the masks and match values of spec/opcode_table.json. -/
theorem test_frame_rows :
    frameRow = ⟨0xFF000000, 0x7E000000⟩ ∧ frameParamReqRow = ⟨0xFFFFFFFF, 0x7E030200⟩ ∧
      frameParamRespRow = ⟨0xFFFFFFFF, 0x7E030500⟩ ∧ frameConfigRow = ⟨0xFFFFFFFF, 0x7E040500⟩ ∧
      frameRenderRow = ⟨0xFFFF0000, 0x7E060000⟩ := by decide

/-- The rows of the opcode table, each at its match value; the render row with L = 1, since R84 gives it L of at least 1,
and its match value, with L = 0, as a FRAME. -/
theorem test_table_words :
    decodeTableWord 16 0x100 = some (.rxByte 0) ∧ decodeTableWord 16 0x200 = some (.txFrame 0 []) ∧
      decodeTableWord 16 0x300 = some .statusRd ∧ decodeTableWord 16 0x400 = some .reset ∧
      decodeTableWord 32 0x7E000000 = some (.frame 0 [] 0) ∧
      decodeTableWord 32 0x7E030200 = some (.frameParamReq 0 0 0) ∧
      decodeTableWord 32 0x7E030500 = some (.frameParamResp 0 0 0 0 0) ∧
      decodeTableWord 32 0x7E040500 = some (.frameConfig 0 0 0 0 0) ∧
      decodeTableWord 32 0x7E060100 = some (.frameRender [0] 0) ∧
      decodeTableWord 32 0x7E060000 = some (.frame 6 [] 0) := by decide

theorem test_table_word_runs : next? (step (State.reset.withFetchWord 16 0x17E)) = some (holding [0x7E]) := by decide

theorem test_table_frame_runs :
    next? (step (State.reset.withFetchWord 32 0x7E100000)) = some (faulted 2 [0x7E, 0x10, 0, 0, 0]) := by decide

/-! ### decode and encode of frames: V-D and V-E -/

theorem test_deframe_short_bad_start : deframe [0x00, 0x01, 0x02] = .incomplete := by decide
theorem test_deframe_bad_start : deframe [0xE7, 0x7E, 0x00, 0x00] = .err .startSentinel := by decide
theorem test_deframe_eof_in_payload : deframe [0x7E, 0xFF, 0x01, 0x00, 0xE7] = .incomplete := by decide
theorem test_deframe_both_sentinels_in_payload :
    deframe [0x7E, 0x02, 0x02, 0x00, 0x7E, 0xE7, 0xE7] = .ok ⟨2, [0x7E, 0xE7]⟩ 7 := by decide
theorem test_deframe_bad_end : deframe [0x7E, 0x02, 0x02, 0x00, 0x7E, 0xE7, 0x00] = .err .endSentinel := by decide
theorem test_deframe_trailing_byte : deframe [0x7E, 0x05, 0x01, 0x00, 0xAA, 0xE7, 0x7E] = .ok ⟨5, [0xAA]⟩ 6 := by decide
/-- V-D12: the high length byte is used. -/
theorem test_deframe_256 :
    deframe ([0x7E, 0x05, 0x00, 0x01] ++ List.replicate 256 0 ++ [0xE7]) =
      .ok ⟨5, List.replicate 256 0⟩ 261 := by decide +kernel
/-- V-E2. -/
theorem test_enframe_sentinel_payload : enframe 0xFF [0x7E] = .ok [0x7E, 0xFF, 0x01, 0x00, 0x7E, 0xE7] := by decide
/-- V-E6. -/
theorem test_enframe_too_large : enframe 9 (copies 65536 0xAA) = .payloadTooLarge := by
  simp [enframe, Config.MAX_PAYLOAD]
/-- V-K1, V-K2, V-K3. -/
theorem test_param_decode :
    paramDecode ⟨3, [0x34, 0x12, 0x09, 0x01, 0x28]⟩ = some ⟨0x1234, 9, 1, 40⟩ ∧ paramDecode ⟨3, [0, 0]⟩ = none ∧
      paramDecode ⟨4, [0x34, 0x12, 0x09, 0x01, 0x28]⟩ = none := by decide

/-! ### One instruction each -/

/-- R110's worked example: the last byte. -/
theorem test_rx_byte_emits :
    next? (exec (.rxByte 0xE7) (holding [0x7E, 0x10, 0x00, 0x00])) =
      some { State.reset with pktOut := [⟨0x10, []⟩] } := by decide
/-- P4, step 7: the late start fault. -/
theorem test_rx_byte_late_start_fault :
    next? (exec (.rxByte 0x02) (holding [0x00, 0x7E, 0x03])) = some (faulted 1 [0x00, 0x7E, 0x03, 0x02]) := by decide
/-- P2, step 2. -/
theorem test_rx_chunk_two_frames :
    next? (exec (.rxChunk [0x7E, 0x06, 0x03, 0x00, 0x00, 0xFF, 0x80, 0xE7, 0x7E, 0x10, 0x00, 0x00, 0xE7, 0x7E, 0x04])
      State.reset) =
      some { holding [0x7E, 0x04] with pktOut := [⟨6, [0x00, 0xFF, 0x80]⟩, ⟨0x10, []⟩] } := by decide
/-- V-R5: the fault after a good frame, the later bytes dropped. -/
theorem test_rx_chunk_fault :
    next? (exec (.rxChunk [0x7E, 0x01, 0x00, 0x00, 0xE7, 0x41, 0x42, 0x43, 0x44, 0x45]) State.reset) =
      some { faulted 1 [0x41, 0x42, 0x43, 0x44] with pktOut := [⟨1, []⟩] } := by decide
/-- V-E8; V-E9: in FAULT too. -/
theorem test_tx_frame :
    next? (exec (.txFrame 0xE7 [0xE7, 0x7E]) State.reset) =
      some { State.reset with txOut := [0x7E, 0xE7, 0x02, 0x00, 0xE7, 0x7E, 0xE7], responses := [.txResult 0] } := by
  decide
theorem test_tx_frame_in_fault :
    next? (exec (.txFrame 0x10 []) (faulted 1 [0, 1, 2, 3])) =
      some { faulted 1 [0, 1, 2, 3] with txOut := [0x7E, 0x10, 0x00, 0x00, 0xE7], responses := [.txResult 0] } := by
  decide
/-- V-K5. -/
theorem test_param_req :
    next? (exec .paramReq State.reset) =
      some { State.reset with txOut := [0x7E, 0x03, 0x02, 0x00, 0x00, 0x00, 0xE7], responses := [.txResult 0] } := by
  decide
/-- V-K6. -/
theorem test_configure :
    next? (exec (.configure 0x1234 9 1 40) State.reset) =
      some { State.reset with txOut := [0x7E, 0x04, 0x05, 0x00, 0x34, 0x12, 0x09, 0x01, 0x28, 0xE7]
                              responses := [.txResult 0] } := by decide
/-- V-K9, V-K12. -/
theorem test_render :
    next? (exec (.render [0xFF, 0x80] 0xCC) State.reset) =
      some { State.reset with txOut := [0x7E, 0x06, 0x03, 0x00, 0xCC, 0xFF, 0x80, 0xE7]
                              responses := [.txResult 0] } := by decide
theorem test_render_too_large :
    next? (exec (.render (copies 65535 0) 0) State.reset) =
      some { State.reset with responses := [.txResult 1] } := by
  simp [exec, execRender, transmit, enframe, renderPayload, Config.MAX_PAYLOAD, raisePayloadTooLarge, respond,
    txResultTooLarge, next?, State.reset]
/-- V-C2, V-C1. -/
theorem test_status_rd :
    next? (exec .statusRd (faulted 1 [0x41, 0x42, 0x43, 0x44])) =
      some { faulted 1 [0x41, 0x42, 0x43, 0x44] with responses := [.status 0x03] } := by decide
theorem test_status_rd_end_fault :
    next? (exec .statusRd (faulted 2 [0x7E, 0x01, 0x01, 0x00, 0xAA, 0xBB])) =
      some { faulted 2 [0x7E, 0x01, 0x01, 0x00, 0xAA, 0xBB] with responses := [.status 0x05] } := by decide
/-- V-C3. -/
theorem test_reset :
    next? (exec .reset { faulted 2 [0x7E, 0x01, 0x01, 0x00, 0xAA, 0xBB] with pktOut := [⟨1, []⟩], txOut := [0x7E] }) =
      some { State.reset with pktOut := [⟨1, []⟩], txOut := [0x7E] } := by decide
/-- V-D9's bytes, V-R7's bytes. -/
theorem test_frame :
    next? (exec (.frame 0xFF [0xE7] 0xE7) State.reset) = some { State.reset with pktOut := [⟨0xFF, [0xE7]⟩] } := by
  decide
theorem test_frame_bad_end :
    next? (exec (.frame 1 [0xAA] 0xBB) State.reset) = some (faulted 2 [0x7E, 0x01, 0x01, 0x00, 0xAA, 0xBB]) := by decide
/-- V-R3's bytes. -/
theorem test_frame_param_req :
    next? (exec (.frameParamReq 0 0 0xE7) State.reset) = some { State.reset with pktOut := [⟨3, [0, 0]⟩] } := by decide
/-- P1, step 3. -/
theorem test_frame_param_resp :
    next? (exec (.frameParamResp 0x1234 9 1 40 0xE7) State.reset) =
      some { State.reset with pktOut := [⟨3, [0x34, 0x12, 0x09, 0x01, 0x28]⟩] } := by decide
/-- V-R2. -/
theorem test_frame_config :
    next? (exec (.frameConfig 0x1234 9 1 40 0xE7) State.reset) =
      some { State.reset with pktOut := [⟨4, [0x34, 0x12, 0x09, 0x01, 0x28]⟩] } := by decide
/-- P2's first frame. -/
theorem test_frame_render :
    next? (exec (.frameRender [0x00, 0xFF, 0x80] 0xE7) State.reset) =
      some { State.reset with pktOut := [⟨6, [0x00, 0xFF, 0x80]⟩] } := by decide

/-- The phases of the trace under V-R2, and V-R8. -/
theorem test_phases :
    phase State.reset = some (.hdr 0) ∧ phase (holding [0x7E, 0x04, 0x05]) = some (.hdr 3) ∧
      phase (holding [0x7E, 0x04, 0x05, 0x00]) = some (.body 5 0) ∧
      phase (holding [0x7E, 0x04, 0x05, 0x00, 0x34, 0x12, 0x09, 0x01, 0x28]) = some (.tail 5) ∧
      phase (holding [0x7E, 0x10, 0x00, 0x00]) = some (.tail 0) ∧
      phase (faulted 1 [0, 1, 2, 3]) = some .fault := by decide

/-! ### Witnesses: states and operands that meet the hypotheses of the statements -/

/-- A running block in the middle of a frame meets the invariant. -/
theorem witness_inv_running : (holding [0x7E, 0x10, 0x00, 0x00]).Inv ∧ (holding [0x7E, 0x10, 0x00, 0x00]).fault = 0 := by
  refine ⟨⟨?_, ?_, ?_, ?_, ?_, ?_, ?_, ?_, ?_⟩, rfl⟩ <;> (simp [holding, State.reset]; try decide)

/-- A block in FAULT with cause START meets it. -/
theorem witness_inv_start_fault :
    (faulted 1 [0, 1, 2, 3]).Inv ∧ (faulted 1 [0, 1, 2, 3]).fault = 1 ∧ (faulted 1 [0, 1, 2, 3]).cause = 1 := by
  refine ⟨⟨?_, ?_, ?_, ?_, ?_, ?_, ?_, ?_, ?_⟩, rfl, rfl⟩ <;>
    (simp [faulted, holding, State.reset]; try decide)

/-- A block in FAULT with cause END meets it. -/
theorem witness_inv_end_fault :
    (faulted 2 [0x7E, 1, 0, 0, 0]).Inv ∧ (faulted 2 [0x7E, 1, 0, 0, 0]).fault = 1 ∧
      (faulted 2 [0x7E, 1, 0, 0, 0]).cause = 2 := by
  refine ⟨⟨?_, ?_, ?_, ?_, ?_, ?_, ?_, ?_, ?_⟩, rfl, rfl⟩ <;>
    (simp [faulted, holding, State.reset]; try decide)

/-- ResetMidFrameRestartsFraming. -/
theorem witness_bad_start_byte : (0xE7 : Byte) ≠ 0x7E := by decide

/-- IdempotencyOfOperations (third part), FrameRowsEmitTheirPacket, ReceivedParametersDecode: a frame boundary. -/
theorem witness_boundary : State.reset.fault = 0 ∧ State.reset.rxbuf = [] := ⟨rfl, rfl⟩

/-- LengthFieldIsLittleEndian: the last offset of a buffer, and the first. -/
theorem witness_length_field : 2 + 2 ≤ ([0x7E, 0x10, 0x01, 0x02] : List Byte).length ∧
    0 + 2 ≤ ([0x01, 0x02] : List Byte).length := by decide

/-- The payload limits on both sides: TxFrameSendsOrRefuses, EncodeLayoutAndRefusal, DecodeInvertsEncode,
IdempotencyOfOperations, and the frame rows. -/
theorem witness_payload_limits :
    (copies 65535 (0xAA : Byte)).length ≤ 65535 ∧ 65535 < (copies 65536 (0xAA : Byte)).length := by simp

/-- RenderSendsChannels, both sides of its limit. -/
theorem witness_universe_limits :
    (copies 65534 (0 : Byte)).length ≤ 65534 ∧ 65534 < (copies 65535 (0 : Byte)).length := by simp

/-- DecodePrefixLaws, parts 1 and 2. -/
theorem witness_decode_results :
    deframe [0x7E, 1, 0, 0, 0xE7] = .ok ⟨1, []⟩ 5 ∧ deframe [0x7E, 1, 0, 0, 0x7E] = .err .endSentinel ∧
      deframe [0, 1, 2, 3] = .err .startSentinel := by decide

/-- EncodeLayoutAndRefusal, injectivity. -/
theorem witness_encode_ok : ∃ f, enframe 3 [0, 0] = .ok f := ⟨_, rfl⟩

/-- PayloadBytesHaveNoFramingEffect: two payloads of one length, both ends. -/
theorem witness_two_payloads :
    ([0x7E, 0xE7] : List Byte).length = (2 : Byte).toNat + 256 * (0 : Byte).toNat ∧
      ([0, 0] : List Byte).length = ([0x7E, 0xE7] : List Byte).length ∧ (0x7E : Byte) ≠ 0xE7 := by decide

/-- EndSentinelEmitsPacket and BadEndSentinelFaults: the shortest and a longer frame awaiting the end. -/
theorem witness_tail :
    (holding [0x7E, 1, 0, 0]).fault = 0 ∧ ([] : List Byte).length = (0 : Byte).toNat + 256 * (0 : Byte).toNat ∧
      (holding [0x7E, 1, 0, 0]).rxbuf = [0x7E, 1, 0, 0] ++ [] ∧
      ([0xAA] : List Byte).length = (1 : Byte).toNat + 256 * (0 : Byte).toNat ∧
      (holding [0x7E, 1, 1, 0, 0xAA]).rxbuf = [0x7E, 1, 1, 0] ++ [0xAA] ∧ (0x7E : Byte) ≠ 0xE7 := by decide

/-- BadStartSentinelFaultsAtFourthByte: three bytes held, and fewer. -/
theorem witness_late_start :
    (holding [0, 1, 2]).fault = 0 ∧ (holding [0, 1, 2]).rxbuf = [0, 1, 2] ∧ (0 : Byte) ≠ 0x7E ∧
      (holding [0, 1]).rxbuf.length < 3 := by decide

/-- PartialFrameWaits: the header's last byte, and the payload's last byte. -/
theorem witness_partial :
    (holding [0x7E, 1, 2]).rxbuf = [0x7E, 1, 2] ∧ ([0xAA] : List Byte).length < (2 : Byte).toNat + 256 * (0 : Byte).toNat ∧
      (holding [0x7E, 1, 2, 0, 0xAA]).rxbuf = [0x7E, 1, 2, 0] ++ [0xAA] ∧
      (holding [0x7E, 1, 2, 0, 0xAA]).fault = 0 := by decide

/-- FaultDropsBytesUntilReset, FaultIsLeftOnlyByReset (an instruction that does not leave FAULT). -/
theorem witness_fault_and_other_instruction : ∃ t, (faulted 1 [0, 1, 2, 3]).fault = 1 ∧ Receives (.rxByte 0) = true ∧
    Instr.paramReq ≠ .reset ∧ exec .paramReq (faulted 1 [0, 1, 2, 3]) = .next t :=
  ⟨_, rfl, rfl, by decide, rfl⟩

/-- OneByteEmitsAtMostOnePacket, EndSentinelEmitsPacket (second part), FaultKeepsFailingFrame, CauseChangesOnlyWithFault:
from a running state of the invariant, an emission and a fault. -/
theorem witness_byte_outcomes : ∃ t u, (holding [0x7E, 0x10, 0x00, 0x00]).Inv ∧
    (holding [0x7E, 0x10, 0x00, 0x00]).fault = 0 ∧
    exec (.rxByte 0xE7) (holding [0x7E, 0x10, 0x00, 0x00]) = .next t ∧
    t.pktOut ≠ (holding [0x7E, 0x10, 0x00, 0x00]).pktOut ∧
    exec (.rxByte 0x00) (holding [0x7E, 0x10, 0x00, 0x00]) = .next u ∧ u.fault = 1 ∧
    u.cause ≠ (holding [0x7E, 0x10, 0x00, 0x00]).cause ∧ u.cause = 2 :=
  ⟨_, _, witness_inv_running.1, rfl, rfl, by decide, rfl, by decide, by decide, by decide⟩

/-- ResetClearsReceivePath, FaultIsLeftOnlyByReset, CauseChangesOnlyWithFault: an instruction that leaves FAULT, cause
START. -/
theorem witness_leaving_fault : ∃ t, (faulted 1 [0, 1, 2, 3]).Inv ∧ (faulted 1 [0, 1, 2, 3]).fault = 1 ∧
    exec .reset (faulted 1 [0, 1, 2, 3]) = .next t ∧ t.fault = 0 ∧ t.cause ≠ (faulted 1 [0, 1, 2, 3]).cause ∧
    t.cause = 0 :=
  ⟨_, witness_inv_start_fault.1, rfl, rfl, by decide, by decide, by decide⟩

/-- FaultIsLeftOnlyByReset, CauseChangesOnlyWithFault: an instruction that enters FAULT, cause START. -/
theorem witness_entering_fault : ∃ t, (holding [0, 1, 2]).Inv ∧ (holding [0, 1, 2]).fault = 0 ∧
    exec (.rxByte 3) (holding [0, 1, 2]) = .next t ∧ t.fault = 1 ∧ t.cause = 1 := by
  refine ⟨_, ⟨?_, ?_, ?_, ?_, ?_, ?_, ?_, ?_, ?_⟩, rfl, rfl, by decide, by decide⟩ <;>
    (simp [holding, State.reset]; try decide)

/-- ReceivePathIsStateMachine, ChunkAgreesWithSource: the chunk that faults in its middle. -/
theorem witness_chunk_fault : ∃ t, (holding [0x7E, 0x10, 0x00, 0x00]).Inv ∧
    exec (.rxChunk [0xE7, 0, 1, 2, 3, 4]) (holding [0x7E, 0x10, 0x00, 0x00]) = .next t ∧ t.fault = 1 :=
  ⟨_, witness_inv_running.1, rfl, by decide⟩

/-- ChunkAgreesWithSource: a chunk that arrives in FAULT. -/
theorem witness_chunk_in_fault : ∃ t, (faulted 1 [0, 1, 2, 3]).Inv ∧
    exec (.rxChunk [5, 6]) (faulted 1 [0, 1, 2, 3]) = .next t ∧ t.fault = 1 :=
  ⟨_, witness_inv_start_fault.1, rfl, rfl⟩

/-- StreamIsReassembledWhateverTheSplit. -/
theorem witness_packets : State.reset.fault = 0 ∧ State.reset.rxbuf = [] ∧
    ∀ p ∈ [(⟨6, [0x00, 0xFF, 0x80]⟩ : Packet), ⟨0x10, []⟩], p.payload.length ≤ 65535 := by
  exact ⟨rfl, rfl, by simp⟩

/-- TransmittedBytesAreReceived. -/
theorem witness_send : ∃ t, State.reset.fault = 0 ∧ State.reset.rxbuf = [] ∧ ([0, 0] : List Byte).length ≤ 65535 ∧
    exec (.txFrame 3 [0, 0]) State.reset = .next t := ⟨_, rfl, rfl, by decide, rfl⟩

/-- FrameRowsWithBadEndFault. -/
theorem witness_bad_end : State.reset.fault = 0 ∧ State.reset.rxbuf = [] ∧ (0 : Byte) ≠ 0xE7 := by decide

/-- ParamDecodeReadsFields, its refusal: each side. -/
theorem witness_no_parameters : (4 : Byte) ≠ 3 ∧ (⟨3, [0, 0]⟩ : Packet).payload.length ≠ 5 := by decide

/-- ReceivingLeavesTransmitSide, TransmittingLeavesReceiveSide, ReceivingAndTransmittingCommute, OutputsAreAppendOnly. -/
theorem witness_both_paths : ∃ t u, Receives (.rxByte 0x7E) = true ∧ exec (.rxByte 0x7E) State.reset = .next t ∧
    Transmits .paramReq = true ∧ exec .paramReq State.reset = .next u := ⟨_, _, rfl, rfl, rfl, rfl⟩

/-- PathsDoNotReadEachOther, first part: a transmission from two states that differ in the receive path. -/
theorem witness_receive_path_differs : ∃ t t', Transmits .paramReq = true ∧
    State.reset.txOut = (faulted 1 [0, 1, 2, 3]).txOut ∧ State.reset.responses = (faulted 1 [0, 1, 2, 3]).responses ∧
    exec .paramReq State.reset = .next t ∧ exec .paramReq (faulted 1 [0, 1, 2, 3]) = .next t' :=
  ⟨_, _, rfl, rfl, rfl, rfl, rfl⟩

/-- A block that has transmitted. -/
def hasSent : State := { State.reset with txOut := [0x7E, 5, 0, 0, 0xE7], responses := [.txResult 0] }

/-- PathsDoNotReadEachOther, second part: a byte received in two states that differ in the transmit path. -/
theorem witness_transmit_path_differs : ∃ t t', Receives (.rxByte 0) = true ∧
    State.reset.rxbuf = hasSent.rxbuf ∧ State.reset.fault = hasSent.fault ∧ State.reset.cause = hasSent.cause ∧
    State.reset.pktOut = hasSent.pktOut ∧ exec (.rxByte 0) State.reset = .next t ∧
    exec (.rxByte 0) hasSent = .next t' :=
  ⟨_, _, rfl, rfl, rfl, rfl, rfl, rfl, rfl⟩

/-- StepTakesOneRequest, StepKeepsInvariant, StepKeepsTransmitStreamWhole: a step that changes something. -/
theorem witness_step : ∃ t, (holding [0, 1, 2]).Inv ∧ (holding [0, 1, 2]).TxWhole ∧
    step { holding [0, 1, 2] with requests := [.word 0x103 []] } = .next t ∧ t.fault = 1 := by
  refine ⟨_, ⟨?_, ?_, ?_, ?_, ?_, ?_, ?_, ?_, ?_⟩, ⟨[], by simp, rfl⟩, rfl, by decide⟩ <;>
    (simp [holding, State.reset]; try decide)

/-- The same with the request in the state. -/
theorem witness_step_invariants :
    State.Inv { holding [0, 1, 2] with requests := [.word 0x103 []] } ∧
      State.TxWhole { holding [0, 1, 2] with requests := [.word 0x103 []], txOut := [0x7E, 5, 0, 0, 0xE7] } := by
  refine ⟨⟨?_, ?_, ?_, ?_, ?_, ?_, ?_, ?_, ?_⟩, ⟨[⟨5, []⟩], by simp, by decide⟩⟩ <;>
    (simp [holding, State.reset]; try decide)

/-- OperationWordsDecode: a word for each clause. -/
theorem witness_words :
    (0x17E : OpWord).toNat / 256 = 1 ∧ (0x203 : OpWord).toNat / 256 = 2 ∧ (0x300 : OpWord).toNat / 256 = 3 ∧
      BitVec.ofNat 8 (0x300 : OpWord).toNat = 0 ∧ (0x400 : OpWord).toNat / 256 = 4 ∧
      BitVec.ofNat 8 (0x400 : OpWord).toNat = 0 ∧ (0x301 : OpWord).toNat / 256 = 3 ∧
      BitVec.ofNat 8 (0x301 : OpWord).toNat ≠ 0 ∧ (0x0FF : OpWord).toNat / 256 = 0 ∧
      5 ≤ (0x500 : OpWord).toNat / 256 ∧ 5 ≤ (0x7FF : OpWord).toNat / 256 := by decide

/-- ReservedWordsAreRefused: both kinds. -/
theorem witness_reserved :
    (presented (.word 0x000 [])).requests = .word 0x000 [] :: [] ∧ (0x000 : OpWord).toNat / 256 = 0 ∧
      (presented (.word 0x4FF [])).requests = .word 0x4FF [] :: [] ∧ (0x4FF : OpWord).toNat / 256 = 4 ∧
      (0x4FF : OpWord).toNat % 256 ≠ 0 := by decide

/-- DecodeEncodeRoundTrip, DecodedInstructionsAreWellFormed, EncodeDecodeRoundTrip. -/
theorem witness_round_trips :
    WellFormed (.frame 0x10 [0xAA] 0xE7) = true ∧ decode (.word 0x203 [0, 0]) = .ok (.txFrame 3 [0, 0]) ∧
      decode (.wire [0x7E, 0x10, 0x00, 0x00, 0xE7]) = .ok (.frame 0x10 [] 0xE7) ∧
      (∀ c, Instr.frame 0x10 [] 0xE7 ≠ .rxChunk c) := by
  refine ⟨by decide, by decide, by decide, by simp⟩

/-- ExpansionsAreOperationWords. -/
theorem witness_expansion : Instr.txFrame 3 [0, 0] ∈ expand .paramReq ∧ Instr.rxByte 0x7E ∈ expand (.rxChunk [0x7E]) := by
  decide

/-- StepRunsDecodedInstruction: its three cases. -/
theorem witness_step_cases :
    (presented (.word 0x300 [])).requests = .word 0x300 [] :: [] ∧ decode (.word 0x300 []) = .ok .statusRd ∧
      WellFormed .statusRd = true ∧ (presented (.word 0x301 [])).requests = .word 0x301 [] :: [] ∧
      decode (.word 0x301 []) = .error (.reservedData 0x301) ∧ State.reset.requests = [] := by decide

/-- FetchedTableWordRuns. -/
theorem witness_table_word : decodeTableWord 16 0x300 = some .statusRd := by decide

/-- ReachableStatesAreLegal: a run that ends in FAULT, and one that ends in the middle of a frame. -/
theorem witness_run : ∃ t u, execAll [.rxByte 0, .rxByte 1, .rxByte 2, .paramReq, .rxByte 3] State.reset = .next t ∧
    t.fault = 1 ∧ execAll [.rxChunk [0x7E, 1, 2, 0], .rxByte 0xAA] State.reset = .next u ∧ u.fault = 0 :=
  ⟨_, _, rfl, by decide, rfl, by decide⟩

end Sys2Proof.Tests
end

section
/-! The invariant of R30 is kept by every instruction, and holds in every state a run from reset reaches; the two
statements of spec/10_state.md about it (O53, O56). -/

namespace Sys2Proof.Machine

/-! ### Each result of decode, by the header the buffer starts with (R100) -/

theorem headerLength_le (B : List Byte) : headerLength B ≤ 65535 := toNat_u16le_le _ _

theorem headerLength_eq (B : List Byte) :
    headerLength B = (byteAt B 2).toNat + 256 * (byteAt B 3).toNat := toNat_u16le _ _

theorem headerLength_append {B : List Byte} (h : 4 ≤ B.length) (X : List Byte) :
    headerLength (B ++ X) = headerLength B := by
  simp only [headerLength, byteAt_append_left B X _ (show 2 < B.length by omega),
    byteAt_append_left B X _ (show 3 < B.length by omega)]

/-- The tests of R100 in their order, the length field read as the header's. -/
theorem deframe_eq (B : List Byte) :
    deframe B =
      if B.length < 4 then .incomplete
      else if byteAt B 0 ≠ Config.SOF then .err .startSentinel
      else if B.length < 5 + headerLength B then .incomplete
      else if byteAt B (4 + headerLength B) ≠ Config.EOF then .err .endSentinel
      else .ok ⟨byteAt B 1, slice B 4 (4 + headerLength B)⟩ (5 + headerLength B) := by
  have hL : memRead B 2 2 = headerLength B := memRead_two B 2
  simp only [deframe, hL, HDR_LEN_eq, MIN_FRAME_eq, show 4 + headerLength B + 1 = 5 + headerLength B by omega]

theorem deframe_incomplete_iff (B : List Byte) :
    deframe B = .incomplete ↔
      B.length < 4 ∨ byteAt B 0 = Config.SOF ∧ B.length < 5 + headerLength B := by
  rw [deframe_eq]
  split_ifs <;> simp_all

theorem deframe_startSentinel_iff (B : List Byte) :
    deframe B = .err .startSentinel ↔ 4 ≤ B.length ∧ byteAt B 0 ≠ Config.SOF := by
  rw [deframe_eq]
  split_ifs <;> simp_all

theorem deframe_endSentinel_iff (B : List Byte) :
    deframe B = .err .endSentinel ↔
      byteAt B 0 = Config.SOF ∧ 5 + headerLength B ≤ B.length ∧
        byteAt B (4 + headerLength B) ≠ Config.EOF := by
  rw [deframe_eq]
  split_ifs <;> simp_all
  omega

theorem deframe_ok_payload_length {B : List Byte} {p : Packet} {n : Nat} (h : deframe B = .ok p n) :
    p.payload.length = headerLength B := by
  rw [deframe_eq] at h
  split_ifs at h
  cases h
  rw [length_slice _ _ _ (by omega)]
  omega

theorem length_lt_of_incomplete {B : List Byte} (h : deframe B = .incomplete) : B.length < 65540 := by
  have hL := headerLength_le B
  rw [deframe_incomplete_iff] at h
  omega

/-! ### The buffer a FramingError leaves (R205) -/

/-- The failing frame R205 keeps: the four header bytes for START, the `5 + L` bytes of the frame for END. -/
def FaultBuffer : FramingCause → List Byte → Prop
  | .startSentinel, B => B.length = 4 ∧ byteAt B 0 ≠ Config.SOF
  | .endSentinel, B => byteAt B 0 = Config.SOF ∧ B.length = 5 + headerLength B ∧
      byteAt B (4 + headerLength B) ≠ Config.EOF

theorem FaultBuffer.length_le {k : FramingCause} {B : List Byte} (h : FaultBuffer k B) : B.length ≤ 65540 := by
  have hL := headerLength_le B
  cases k with
  | startSentinel => obtain ⟨hlen, -⟩ := h; omega
  | endSentinel => obtain ⟨-, hlen, -⟩ := h; omega

/-- A FramingError is found on the very byte that makes it certain, so nothing stands behind the failing frame. -/
theorem faultBuffer_of_deframe_err {B : List Byte} {d : Byte} {k : FramingCause}
    (hi : deframe B = .incomplete) (he : deframe (B ++ [d]) = .err k) : FaultBuffer k (B ++ [d]) := by
  have hlen : (B ++ [d]).length = B.length + 1 := by simp
  rw [deframe_incomplete_iff] at hi
  cases k with
  | startSentinel =>
    obtain ⟨h4, h0⟩ := (deframe_startSentinel_iff _).1 he
    refine ⟨?_, h0⟩
    obtain hshort | ⟨hsof, -⟩ := hi
    · omega
    · by_contra hne
      exact h0 (by rw [byteAt_append_left B [d] 0 (by omega), hsof])
  | endSentinel =>
    obtain ⟨h0, hfull, htail⟩ := (deframe_endSentinel_iff _).1 he
    refine ⟨h0, ?_, htail⟩
    obtain hshort | ⟨-, hpart⟩ := hi
    · omega
    · by_cases h4 : 4 ≤ B.length
      · rw [headerLength_append h4] at hfull ⊢
        omega
      · omega

/-! ### The invariant (R30): what is enough for it, and what it says -/

/-- A running state needs no more than a clear cause and an incomplete frame; the bound follows (R55). -/
theorem State.Inv.of_running {s : State} (hf : s.fault = 0) (hc : s.cause = 0) (hi : deframe s.rxbuf = .incomplete)
    (hp : ∀ p ∈ s.pktOut, p.payload.length ≤ Config.MAX_PAYLOAD)
    (hs : ∀ w, Response.status w ∈ s.responses → w = 0x00 ∨ w = 0x03 ∨ w = 0x05) : s.Inv where
  noCauseWhileRunning _ := hc
  causeInFault h := by simp [hf] at h
  incompleteWhileRunning _ := hi
  boundWhileRunning _ := length_lt_of_incomplete hi
  boundInFault h := by simp [hf] at h
  startFaultBuffer h := by simp [hf] at h
  endFaultBuffer h := by simp [hf] at h
  payloadBound := hp
  statusLegal := hs

/-- A faulted state needs no more than the failing frame of its cause. -/
theorem State.Inv.of_faulted {s : State} {k : FramingCause} (hf : s.fault = 1) (hc : s.cause = k.code)
    (hb : FaultBuffer k s.rxbuf) (hp : ∀ p ∈ s.pktOut, p.payload.length ≤ Config.MAX_PAYLOAD)
    (hs : ∀ w, Response.status w ∈ s.responses → w = 0x00 ∨ w = 0x03 ∨ w = 0x05) : s.Inv where
  noCauseWhileRunning h := by simp [hf] at h
  causeInFault _ := by cases k <;> simp [hc, FramingCause.code]
  incompleteWhileRunning h := by simp [hf] at h
  boundWhileRunning h := by simp [hf] at h
  boundInFault _ := hb.length_le
  startFaultBuffer _ h := by
    cases k with
    | startSentinel => exact hb
    | endSentinel => simp [hc, FramingCause.code] at h
  endFaultBuffer _ h := by
    cases k with
    | startSentinel => simp [hc, FramingCause.code] at h
    | endSentinel => exact hb
  payloadBound := hp
  statusLegal := hs

/-- The three pairs of flags R30 allows. -/
theorem State.Inv.flag_cases {s : State} (h : s.Inv) :
    s.fault = 0 ∧ s.cause = 0 ∨ s.fault = 1 ∧ s.cause = 1 ∨ s.fault = 1 ∧ s.cause = 2 := by
  obtain hf | hf := fault_cases s
  · exact .inl ⟨hf, h.noCauseWhileRunning hf⟩
  · obtain hc | hc := h.causeInFault hf
    · exact .inr (.inl ⟨hf, hc⟩)
    · exact .inr (.inr ⟨hf, hc⟩)

/-- The values of the STATUS word (R26). -/
theorem State.Inv.statusWord_legal {s : State} (h : s.Inv) :
    statusWord s = 0x00 ∨ statusWord s = 0x03 ∨ statusWord s = 0x05 := by
  obtain ⟨hf, hc⟩ | ⟨hf, hc⟩ | ⟨hf, hc⟩ := h.flag_cases <;> simp [statusWord, hf, hc]

/-! ### Every operation keeps the invariant -/

theorem inv_reset : State.reset.Inv :=
  .of_running rfl rfl (deframe_short _ (by decide)) (by simp [State.reset]) (by simp [State.reset])

theorem clearReceivePath_keeps_inv {s : State} (h : s.Inv) : (clearReceivePath s).Inv :=
  .of_running rfl rfl (deframe_short _ (by simp)) h.payloadBound h.statusLegal

theorem emitTx_keeps_inv {s : State} (h : s.Inv) (bytes : List Byte) : (emitTx bytes s).Inv :=
  { h with }

theorem respond_keeps_inv {s : State} (h : s.Inv) {v : Response}
    (hv : ∀ w, v = .status w → w = 0x00 ∨ w = 0x03 ∨ w = 0x05) : (respond v s).Inv :=
  { h with
    statusLegal := fun w hw => by
      obtain hold | hnew := List.mem_append.1 hw
      · exact h.statusLegal w hold
      · exact hv w (List.mem_singleton.1 hnew).symm }

theorem transmit_keeps_inv {s : State} (h : s.Inv) (id : Byte) (P : List Byte) : (transmit id P s).Inv := by
  obtain ⟨-, heq⟩ | ⟨-, heq⟩ := transmit_cases id P s
  · exact heq ▸ respond_keeps_inv (emitTx_keeps_inv h _) (by simp)
  · exact heq ▸ respond_keeps_inv h (by simp)

theorem receiveByte_keeps_inv {s : State} (h : s.Inv) (d : Byte) : (receiveByte d s).Inv := by
  obtain hf | hf := fault_cases s
  · have hc := h.noCauseWhileRunning hf
    have hi := h.incompleteWhileRunning hf
    obtain ⟨hi', heq⟩ | ⟨k, he, heq⟩ | ⟨p, hok, heq⟩ := receiveByte_cases s d hi hf
    · exact heq ▸ .of_running hf hc hi' h.payloadBound h.statusLegal
    · exact heq ▸ .of_faulted rfl rfl (faultBuffer_of_deframe_err hi he) h.payloadBound h.statusLegal
    · refine heq ▸ .of_running hf hc (deframe_short _ (by simp)) (fun q hq => ?_) h.statusLegal
      obtain hold | hnew := List.mem_append.1 hq
      · exact h.payloadBound q hold
      · rw [List.mem_singleton.1 hnew, deframe_ok_payload_length hok]
        exact headerLength_le _
  · rwa [receiveByte_fault hf]

theorem receive_keeps_inv {s : State} (h : s.Inv) (ds : List Byte) : (receive ds s).Inv := by
  induction ds generalizing s with
  | nil => exact h
  | cons d ds ih => exact ih (receiveByte_keeps_inv h d)

/-- Every instruction keeps the invariant of R30. -/
theorem exec_keeps_inv {i : Instr} {s t : State} (h : s.Inv) (he : exec i s = .next t) : t.Inv := by
  obtain ⟨-, c, rfl⟩ | ⟨-, id, P, rfl⟩ | ⟨-, rfl⟩ | ⟨-, rfl⟩ := exec_cases he
  · exact receive_keeps_inv h c
  · exact transmit_keeps_inv h id P
  · exact respond_keeps_inv h fun w hw => by cases hw; exact h.statusWord_legal
  · exact clearReceivePath_keeps_inv h

/-! ### Runs -/

theorem execAll_cons_next {i : Instr} {is : List Instr} {s t : State} :
    execAll (i :: is) s = .next t ↔ ∃ u, exec i s = .next u ∧ execAll is u = .next t := by
  rw [execAll]
  cases exec i s <;> simp

/-- What every instruction keeps, every run keeps. -/
theorem execAll_keeps {P : State → Prop} (hstep : ∀ i s t, P s → exec i s = .next t → P t)
    {is : List Instr} {s t : State} (h : P s) (he : execAll is s = .next t) : P t := by
  induction is generalizing s with
  | nil => cases he; exact h
  | cons i is ih =>
    obtain ⟨u, hu, ht⟩ := execAll_cons_next.1 he
    exact ih (hstep i s u h hu) ht

/-- R30: every state a run from reset reaches satisfies the invariant. -/
theorem inv_of_execAll_reset {is : List Instr} {t : State} (h : execAll is State.reset = .next t) : t.Inv :=
  execAll_keeps (fun _ _ _ => exec_keeps_inv) inv_reset h

/-! ### In FAULT -/

theorem transmit_leaves (id : Byte) (P : List Byte) (s : State) :
    (transmit id P s).rxbuf = s.rxbuf ∧ (transmit id P s).fault = s.fault ∧ (transmit id P s).cause = s.cause ∧
      (transmit id P s).pktOut = s.pktOut := by
  obtain ⟨-, heq⟩ | ⟨-, heq⟩ := transmit_cases id P s <;> simp [heq]

/-- R112, R209: in FAULT every instruction but RESET leaves the buffer, both flags and the packets emitted. -/
theorem exec_in_fault {i : Instr} {s t : State} (hf : s.fault = 1) (he : exec i s = .next t) :
    i = .reset ∧ t = clearReceivePath s ∨
      t.rxbuf = s.rxbuf ∧ t.fault = s.fault ∧ t.cause = s.cause ∧ t.pktOut = s.pktOut := by
  obtain ⟨-, c, rfl⟩ | ⟨-, id, P, rfl⟩ | ⟨-, rfl⟩ | ⟨rfl, rfl⟩ := exec_cases he
  · right; simp [receive_fault hf]
  · exact .inr (transmit_leaves id P s)
  · right; simp
  · exact .inl ⟨rfl, rfl⟩

/-! ### The cause (R24) -/

/-- From a state of the invariant an instruction that changes the cause changes the fault flag (R24): while running the
cause is 0, and in FAULT only RESET changes it. -/
theorem exec_fault_changes_of_cause_changes {i : Instr} {s t : State} (h : s.Inv) (he : exec i s = .next t)
    (hne : t.cause ≠ s.cause) : t.fault ≠ s.fault := by
  intro heq
  obtain hf | hf := fault_cases s
  · exact hne (by rw [h.noCauseWhileRunning hf, (exec_keeps_inv h he).noCauseWhileRunning (heq.trans hf)])
  · obtain ⟨-, rfl⟩ | ⟨-, -, hc, -⟩ := exec_in_fault hf he
    · simp [hf] at heq
    · exact hne hc

/-- From a state of the invariant only RESET clears the cause (R24). -/
theorem reset_of_exec_clears_cause {i : Instr} {s t : State} (h : s.Inv) (he : exec i s = .next t)
    (hne : t.cause ≠ s.cause) (h0 : t.cause = 0) : i = .reset := by
  obtain hf | hf := fault_cases s
  · exact absurd (h0.trans (h.noCauseWhileRunning hf).symm) hne
  · obtain ⟨hi, -⟩ | ⟨-, -, hc, -⟩ := exec_in_fault hf he
    · exact hi
    · exact absurd hc hne

/-- A cause is never 3, and it names the sentinel that is wrong in the buffer (R24). -/
theorem State.Inv.cause_meaning {s : State} (h : s.Inv) :
    s.cause ≠ 3 ∧ (s.cause = 1 → byteAt s.rxbuf 0 ≠ Config.SOF) ∧
      (s.cause = 2 → byteAt s.rxbuf (4 + headerLength s.rxbuf) ≠ Config.EOF) := by
  obtain ⟨hf, hc⟩ | ⟨hf, hc⟩ | ⟨hf, hc⟩ := h.flag_cases
  · simp [hc]
  · obtain ⟨-, hstart⟩ := h.startFaultBuffer hf hc
    simp [hc, hstart]
  · obtain ⟨-, -, hend⟩ := h.endFaultBuffer hf hc
    simpa [hc] using hend

/-! ### The statements -/

/-- Settles O53: the invariant holds at reset and every instruction keeps it. -/
theorem reachableStatesAreLegal : Obligations.ReachableStatesAreLegal := by
  intro is t h
  have hI := inv_of_execAll_reset h
  refine ⟨hI.noCauseWhileRunning, hI.causeInFault, hI.incompleteWhileRunning, fun hf => ?_, fun hf => ?_,
    hI.boundInFault⟩
  · obtain hshort | ⟨hsof, hpart⟩ := (deframe_incomplete_iff _).1 (hI.incompleteWhileRunning hf)
    · exact .inl (by omega)
    · have hle : t.rxbuf.length ≤ 4 + headerLength t.rxbuf := by omega
      exact .inr ⟨hsof, hle⟩
  · exact Nat.lt_succ_iff.1 (hI.boundWhileRunning hf)

/-- Settles O56, from the invariant after the instruction and from what FAULT lets an instruction change. -/
theorem causeChangesOnlyWithFault : Obligations.CauseChangesOnlyWithFault := by
  intro i s t h he
  obtain ⟨h3, h1, h2⟩ := (exec_keeps_inv h he).cause_meaning
  refine ⟨exec_fault_changes_of_cause_changes h he, reset_of_exec_clears_cause h he, h3, h1, fun hc => ?_⟩
  rw [Nat.add_assoc]
  exact headerLength_eq t.rxbuf ▸ h2 hc

end Sys2Proof.Machine
end

section
/-! The reads of the buffer memory and the operations that may or may not be repeated: the statements of
spec/20_memory.md (O6, O11). -/

namespace Sys2Proof.Machine

/-! ### Reading the buffer (R52) -/

theorem memRead_one (B : List Byte) (a : Nat) : memRead B a 1 = (byteAt B a).toNat := by
  simp [memRead]

/-! ### One operation of R80, and two in a row -/

@[simp] theorem exec_rxByte (d : Byte) (s : State) : exec (.rxByte d) s = .next (receiveByte d s) := rfl

@[simp] theorem exec_txFrame (id : Byte) (P : List Byte) (s : State) :
    exec (.txFrame id P) s = .next (transmit id P s) := rfl

@[simp] theorem exec_statusRd (s : State) : exec .statusRd s = .next (respond (.status (statusWord s)) s) := rfl

@[simp] theorem exec_reset (s : State) : exec .reset s = .next (clearReceivePath s) := rfl

theorem execAll_singleton (i : Instr) (s : State) : execAll [i] s = exec i s := by
  rw [execAll]
  cases exec i s <;> rfl

/-- An instruction that has a next state, done twice, is done again from that state. -/
theorem execAll_twice {i : Instr} {s t : State} (h : exec i s = .next t) : execAll [i, i] s = exec i t := by
  rw [execAll, h]
  exact execAll_singleton i t

/-! ### What the operations do when repeated (R57) -/

/-- A response is no part of the STATUS word, so reading it does not change it (R26). -/
@[simp] theorem statusWord_respond (v : Response) (s : State) : statusWord (respond v s) = statusWord s := rfl

@[simp] theorem clearReceivePath_clearReceivePath (s : State) :
    clearReceivePath (clearReceivePath s) = clearReceivePath s := rfl

/-- A running block buffers a byte that leaves the header short, whatever the bytes (R79). -/
theorem receiveByte_short {s : State} (hf : s.fault = 0) (hlen : s.rxbuf.length < 3) (d : Byte) :
    receiveByte d s = bufAppend d s := by
  rw [receiveByte_running hf, drain_incomplete (deframe_short _ (by simp; omega))]

/-- From a frame boundary two bytes received are two bytes held. -/
theorem receiveByte_twice_from_boundary {s : State} (hf : s.fault = 0) (hb : s.rxbuf = []) (d : Byte) :
    receiveByte d s = { s with rxbuf := [d] } ∧
      receiveByte d (receiveByte d s) = { s with rxbuf := [d, d] } := by
  have h1 : receiveByte d s = { s with rxbuf := [d] } := by
    rw [receiveByte_short hf (by simp [hb]), bufAppend, hb, List.nil_append]
  have h2 : receiveByte d { s with rxbuf := [d] } = { s with rxbuf := [d, d] } :=
    receiveByte_short (s := { s with rxbuf := [d] }) hf (by simp) d
  exact ⟨h1, h1 ▸ h2⟩

/-- A frame that fits is sent as often as it is asked for (R57, R141). -/
theorem transmit_fits_twice (id : Byte) (P : List Byte) (s : State) (h : P.length ≤ 65535) :
    transmit id P (transmit id P s) = { s with
      txOut := s.txOut ++ frameBytes id P Config.EOF ++ frameBytes id P Config.EOF
      responses := s.responses ++ [.txResult 0, .txResult 0] } := by
  simp [transmit_fits id P _ h, respond, emitTx]

/-- A refused frame leaves its responses and nothing else (R57, R206). -/
theorem transmit_tooLarge_twice (id : Byte) (P : List Byte) (s : State) (h : 65535 < P.length) :
    transmit id P (transmit id P s) =
      { s with responses := s.responses ++ [.txResult 1, .txResult 1] } := by
  simp [transmit_tooLarge id P _ h, respond]

/-! ### The statements -/

/-- Settles O6: each operation done once, then once more from the state it led to. -/
theorem idempotencyOfOperations : Obligations.IdempotencyOfOperations := by
  refine ⟨fun s => ⟨statusWord s, rfl, ?status⟩, fun s => ?reset, fun d s hf hb => ?byte,
    fun id P s h => ⟨_, enframe_fits id P h, length_frameBytes id P _, ?sentOnce, ?sentTwice⟩,
    fun id P s h => ?refused⟩
  case status =>
    rw [execAll_twice (exec_statusRd s), exec_statusRd, statusWord_respond]
    simp [respond]
  case reset => rw [execAll_twice (exec_reset s), exec_reset, exec_reset, clearReceivePath_clearReceivePath]
  case byte =>
    obtain ⟨hone, htwo⟩ := receiveByte_twice_from_boundary hf hb d
    rw [execAll_twice (exec_rxByte d s), exec_rxByte, exec_rxByte, htwo, hone]
    exact ⟨rfl, rfl⟩
  case sentOnce => rw [exec_txFrame, transmit_fits id P s h]; rfl
  case sentTwice => rw [execAll_twice (exec_txFrame id P s), exec_txFrame, transmit_fits_twice id P s h]
  case refused => rw [execAll_twice (exec_txFrame id P s), exec_txFrame, transmit_tooLarge_twice id P s h]

/-- Settles O11: the two-byte read is `u16le`, whose halves are its two bytes. -/
theorem lengthFieldIsLittleEndian : Obligations.LengthFieldIsLittleEndian := by
  intro B a _
  have hword : memRead B a 2 = (u16le (B.getD a 0) (B.getD (a + 1) 0)).toNat := memRead_two B a
  refine ⟨?sum, hword, ?low, ?high⟩
  case sum => rw [hword, toNat_u16le]
  case low => rw [hword, lo8_u16le, memRead_one]; rfl
  case high => rw [hword, hi8_u16le, memRead_one]; rfl

end Sys2Proof.Machine
end

section
/-! Frames and operation words as they are encoded: the statements of spec/30_encoding.md (O12, O16, O21, O39). -/

namespace Sys2Proof.Machine

/-! ### Frames with a header written out (R71, R78, R79) -/

/-- A header whose length field is the payload's length makes the layout of R71. -/
theorem frameBytes_of_length {lo hi : Byte} {P : List Byte} (h : P.length = lo.toNat + 256 * hi.toNat)
    (id tail : Byte) : [0x7E, id, lo, hi] ++ P ++ [tail] = frameBytes id P tail := by
  have hL : P.length = (u16le lo hi).toNat := h.trans (toNat_u16le lo hi).symm
  rw [frameBytes, hL, lo8_u16le, hi8_u16le]
  rfl

/-- Of a whole frame decode looks at the byte after the payload alone, whatever the payload holds (R78). -/
theorem deframe_whole {lo hi : Byte} {P : List Byte} (h : P.length = lo.toNat + 256 * hi.toNat)
    (id tail : Byte) (X : List Byte) :
    deframe ([0x7E, id, lo, hi] ++ P ++ [tail] ++ X) =
      if tail ≠ Config.EOF then .err .endSentinel else .ok ⟨id, P⟩ (5 + P.length) := by
  have hfits : P.length ≤ 65535 := by
    rw [h, ← toNat_u16le]
    exact toNat_u16le_le lo hi
  rw [frameBytes_of_length h, deframe_frameBytes id P X tail hfits]

/-- A header that starts with SOF waits until more than L bytes stand behind it (R79). -/
theorem deframe_partial {lo hi : Byte} {body : List Byte} (h : body.length ≤ lo.toNat + 256 * hi.toNat)
    (id : Byte) : deframe ([0x7E, id, lo, hi] ++ body) = .incomplete := by
  rw [← toNat_u16le] at h
  exact (deframe_header id lo hi body).trans (if_pos h)

/-- While decode answers Incomplete a running block only appends the byte (R79, R110). -/
theorem exec_rxByte_waits {s : State} {d : Byte} (hf : s.fault = 0)
    (hi : deframe (s.rxbuf ++ [d]) = .incomplete) :
    exec (.rxByte d) s = .next { s with rxbuf := s.rxbuf ++ [d] } := by
  rw [exec_rxByte, receiveByte_running hf, drain_incomplete hi]
  rfl

/-- Settles O12: `deframe_whole` names the payload only in the packet it answers. -/
theorem payloadBytesHaveNoFramingEffect : Obligations.PayloadBytesHaveNoFramingEffect := by
  intro id lo hi tail P Q X hP hQ
  rw [deframe_whole hP id tail X, deframe_whole (hQ.trans hP) id tail X, hQ]
  exact ⟨fun h => ⟨if_neg (not_not.2 h), if_neg (not_not.2 h)⟩, fun h => ⟨if_pos h, if_pos h⟩⟩

/-- Settles O16: in each clause decode of the buffer with the byte is Incomplete, and then the byte is only appended. -/
theorem partialFrameWaits : Obligations.PartialFrameWaits := by
  refine ⟨fun s d hf hlen => ?short, fun s id lo d hf hb => ?header, fun s id lo hi d P hf hP hb => ?body⟩
  case short =>
    have hi : deframe (s.rxbuf ++ [d]) = .incomplete := deframe_short _ (by simp; omega)
    exact ⟨exec_rxByte_waits hf hi, hi⟩
  case header =>
    have hi : deframe [0x7E, id, lo, d] = .incomplete := deframe_partial (body := []) (Nat.zero_le _) id
    have happ : s.rxbuf ++ [d] = [0x7E, id, lo, d] := by rw [hb]; rfl
    exact ⟨happ ▸ exec_rxByte_waits hf (happ ▸ hi), hi⟩
  case body =>
    have hi' : deframe ([0x7E, id, lo, hi] ++ P ++ [d]) = .incomplete := by
      rw [List.append_assoc]
      exact deframe_partial (by simpa using hP) id
    exact ⟨hb ▸ exec_rxByte_waits hf (hb ▸ hi'), hi'⟩

/-! ### The pseudo-operations (R82) -/

/-- Operations RX_BYTE one after the other receive their bytes in order. -/
theorem execAll_map_rxByte (c : List Byte) (s : State) : execAll (c.map .rxByte) s = .next (receive c s) := by
  induction c generalizing s with
  | nil => rfl
  | cons d c ih => exact ih (receiveByte d s)

theorem lo8_toNat_half (h : Half) : lo8 h.toNat = h.extractLsb' 0 8 := by
  apply BitVec.eq_of_toNat_eq
  simp [toNat_lo8]

theorem hi8_toNat_half (h : Half) : hi8 h.toNat = h.extractLsb' 8 8 := by
  apply BitVec.eq_of_toNat_eq
  simp [toNat_hi8, Nat.shiftRight_eq_div_pow]

/-- Settles O21: RX_CHUNK by induction on the chunk, the frame builders by the payload each of them lays out. -/
theorem pseudoOperationsAreTheirExpansions : Obligations.PseudoOperationsAreTheirExpansions := by
  refine fun s => ⟨fun c => (execAll_map_rxByte c s).symm, rfl, fun fw brk mab rate => ?_, fun _ _ => rfl⟩
  rw [← lo8_toNat_half, ← hi8_toNat_half]
  rfl

end Sys2Proof.Machine

namespace Sys2Proof

/-! ### Operation words (R81) -/

/-- OP is the word's value without its low eight bits. -/
theorem opField_eq_iff (w : OpWord) (op : BitVec 3) : opField w = op ↔ w.toNat / 256 = op.toNat := by
  have hw := w.isLt
  rw [← BitVec.toNat_inj, opField, BitVec.extractLsb'_toNat, Nat.shiftRight_eq_div_pow,
    Nat.mod_eq_of_lt (by omega)]

/-- The word's meaning by OP and DATA, as R81 tables it. -/
theorem decodeWord_eq (w : OpWord) (P : List Byte) :
    decodeWord w P =
      if opField w = 1 then withoutPayload w P (.rxByte (dataField w))
      else if opField w = 2 then .ok (.txFrame (dataField w) P)
      else if opField w = 3 ∧ dataField w = 0 then withoutPayload w P .statusRd
      else if opField w = 4 ∧ dataField w = 0 then withoutPayload w P .reset
      else if opField w = 3 ∨ opField w = 4 then .error (.reservedData w)
      else .error (.reservedOp w) := by
  obtain ⟨hrx, htx, hstatus, hreset⟩ := opRows_fit w
  simp only [decodeWord, hrx, htx, hstatus, hreset, decide_eq_true_eq]

@[simp] theorem withoutPayload_nil (w : OpWord) (i : Instr) : withoutPayload w [] i = .ok i := rfl

theorem decodeWord_rxByte {w : OpWord} (h : opField w = 1) : decodeWord w [] = .ok (.rxByte (dataField w)) := by
  simp [decodeWord_eq, h]

theorem decodeWord_txFrame {w : OpWord} (h : opField w = 2) (P : List Byte) :
    decodeWord w P = .ok (.txFrame (dataField w) P) := by
  simp [decodeWord_eq, h]

theorem decodeWord_statusRd {w : OpWord} (h : opField w = 3) (hd : dataField w = 0) :
    decodeWord w [] = .ok .statusRd := by
  simp [decodeWord_eq, h, hd]

theorem decodeWord_reset {w : OpWord} (h : opField w = 4) (hd : dataField w = 0) :
    decodeWord w [] = .ok .reset := by
  simp [decodeWord_eq, h, hd]

theorem decodeWord_reservedData {w : OpWord} (h : opField w = 3 ∨ opField w = 4) (hd : dataField w ≠ 0)
    (P : List Byte) : decodeWord w P = .error (.reservedData w) := by
  have hstatus : ¬ (opField w = 3 ∧ dataField w = 0) := fun hc => hd hc.2
  have hreset : ¬ (opField w = 4 ∧ dataField w = 0) := fun hc => hd hc.2
  rw [decodeWord_eq, if_neg hstatus, if_neg hreset, if_pos h]
  obtain h | h := h <;> simp [h]

theorem decodeWord_reservedOp {w : OpWord} (h1 : opField w ≠ 1) (h2 : opField w ≠ 2) (h3 : opField w ≠ 3)
    (h4 : opField w ≠ 4) (P : List Byte) : decodeWord w P = .error (.reservedOp w) := by
  rw [decodeWord_eq, if_neg h1, if_neg h2, if_neg fun hc => h3 hc.1, if_neg fun hc => h4 hc.1,
    if_neg (not_or.2 ⟨h3, h4⟩)]

/-- Settles O39: each clause is the line of R81 for its OP and DATA. The low byte of the word is `dataField` by
definition. -/
theorem operationWordsDecode : Obligations.OperationWordsDecode := by
  intro w P
  have hop (op : BitVec 3) : w.toNat / 256 = op.toNat → opField w = op := (opField_eq_iff w op).2
  have hne (op : BitVec 3) : w.toNat / 256 ≠ op.toNat → opField w ≠ op := mt (opField_eq_iff w op).1
  refine ⟨fun h => decodeWord_rxByte (hop 1 h), fun h => decodeWord_txFrame (hop 2 h) P,
    fun h => decodeWord_statusRd (hop 3 h), fun h => decodeWord_reset (hop 4 h),
    fun h hd => decodeWord_reservedData (h.imp (hop 3) (hop 4)) hd P, fun h => ?reservedOp⟩
  case reservedOp =>
    exact decodeWord_reservedOp (hne 1 (show _ ≠ 1 by omega)) (hne 2 (show _ ≠ 2 by omega))
      (hne 3 (show _ ≠ 3 by omega)) (hne 4 (show _ ≠ 4 by omega)) P

end Sys2Proof
end

section
/-! The receive path: the laws of decode and of RX_BYTE, and RX_BYTE as a state machine: the statements of
spec/40_deframer.md (O7, O8, O9, O13, O17, O18, O20, O23). -/

namespace Sys2Proof.Machine

/-! ### decode: its results, and what follows the bytes it looks at (R100, R101, R102) -/

theorem deframe_ok_iff (B : List Byte) (p : Packet) (n : Nat) :
    deframe B = .ok p n ↔
      byteAt B 0 = Config.SOF ∧ 5 + headerLength B ≤ B.length ∧ byteAt B (4 + headerLength B) = Config.EOF ∧
        p = ⟨byteAt B 1, slice B 4 (4 + headerLength B)⟩ ∧ n = 5 + headerLength B := by
  rw [deframe_eq]
  split_ifs <;> simp_all [eq_comm]
  omega

/-- Settles O7: the four results by their conditions, the sum of the two length bytes being `headerLength`. -/
theorem decodeResultsCharacterised : Obligations.DecodeResultsCharacterised := by
  intro B L
  have hL : L = headerLength B := (headerLength_eq B).symm
  have hslice : slice B 4 (4 + headerLength B) = (B.drop 4).take (headerLength B) := by
    rw [slice, Nat.add_sub_cancel_left]
  rw [hL]
  refine ⟨deframe_incomplete_iff B, deframe_startSentinel_iff B, ?endSentinel, fun p n => ?ok⟩
  case endSentinel =>
    exact (deframe_endSentinel_iff B).trans (and_iff_right_of_imp fun ⟨_, hfull, _⟩ => by omega).symm
  case ok =>
    rw [deframe_ok_iff, hslice]
    exact (and_iff_right_of_imp fun ⟨_, hfull, _⟩ => by omega).symm

theorem take_append_byteAt_cons_drop {B : List Byte} {i : Nat} (h : i < B.length) :
    B.take i ++ byteAt B i :: B.drop (i + 1) = B := by
  rw [byteAt, List.getD_eq_getElem B 0 h, ← List.drop_eq_getElem_cons h, List.take_append_drop]

/-- A buffer that decodes starts with the frame of its packet, and that frame is what decode consumes. -/
theorem deframe_ok_frame {B : List Byte} {p : Packet} {n : Nat} (h : deframe B = .ok p n) :
    p.payload.length ≤ 65535 ∧ n = 5 + p.payload.length ∧
      ∃ X, B = frameBytes p.id p.payload Config.EOF ++ X := by
  obtain hB | ⟨_, _, _, _, _, rfl, h0⟩ | ⟨id, lo, hi, body, rfl⟩ := buffer_cases B
  · simp [deframe_short _ hB] at h
  · simp [deframe_badStart _ _ _ _ _ h0] at h
  · rw [deframe_header] at h
    split_ifs at h with hfull htail
    cases h
    have hlen : (body.take (u16le lo hi).toNat).length = (u16le lo hi).toNat := List.length_take_of_le (by omega)
    refine ⟨hlen.trans_le (toNat_u16le_le lo hi), by rw [hlen], body.drop ((u16le lo hi).toNat + 1), ?_⟩
    rw [← frameBytes_of_length (hlen.trans (toNat_u16le lo hi)), ← not_not.1 htail]
    simp [take_append_byteAt_cons_drop (not_le.1 hfull), Config.SOF]

/-- An Ok stands whatever follows the frame (R101). -/
theorem deframe_ok_append {B : List Byte} {p : Packet} {n : Nat} (h : deframe B = .ok p n) (X : List Byte) :
    deframe (B ++ X) = .ok p n := by
  obtain ⟨hfits, rfl, Y, rfl⟩ := deframe_ok_frame h
  rw [List.append_assoc, deframe_frameBytes _ _ _ _ hfits, if_neg (not_not.2 rfl)]

/-- An Ok depends on the bytes it consumes alone (R101). -/
theorem deframe_ok_take {B : List Byte} {p : Packet} {n : Nat} (h : deframe B = .ok p n) :
    deframe (B.take n) = .ok p n := by
  obtain ⟨hfits, rfl, Y, rfl⟩ := deframe_ok_frame h
  rw [List.take_left' (length_frameBytes _ _ _), ← List.append_nil (frameBytes _ _ _),
    deframe_frameBytes _ _ _ _ hfits, if_neg (not_not.2 rfl)]

/-- An Err stands whatever follows (R101). -/
theorem deframe_err_append {B : List Byte} {k : FramingCause} (h : deframe B = .err k) (X : List Byte) :
    deframe (B ++ X) = .err k := by
  cases k with
  | startSentinel =>
    obtain ⟨h4, h0⟩ := (deframe_startSentinel_iff B).1 h
    refine (deframe_startSentinel_iff _).2 ⟨by simp; omega, ?_⟩
    rwa [byteAt_append_left B X 0 (by omega)]
  | endSentinel =>
    obtain ⟨h0, hfull, htail⟩ := (deframe_endSentinel_iff B).1 h
    rw [deframe_endSentinel_iff, headerLength_append (by omega), byteAt_append_left B X 0 (by omega),
      byteAt_append_left B X _ (by omega)]
    exact ⟨h0, by simp; omega, htail⟩

/-- What is Incomplete with more bytes behind it is Incomplete without them. -/
theorem deframe_incomplete_of_append {B X : List Byte} (h : deframe (B ++ X) = .incomplete) :
    deframe B = .incomplete := by
  cases hB : deframe B with
  | incomplete => rfl
  | ok p n => simp [deframe_ok_append hB X] at h
  | err k => simp [deframe_err_append hB X] at h

/-- Settles O8: the laws of Ok and Err by what each says of the buffer; the three results an Incomplete buffer may come
to, from the empty buffer. -/
theorem decodePrefixLaws : Obligations.DecodePrefixLaws := by
  refine ⟨fun B p n h => ?ok, fun B k h X => deframe_err_append h X, ⟨[], ?incomplete⟩, deframe_incomplete_iff⟩
  case ok =>
    obtain ⟨hmin, hmax⟩ := deframe_ok_consumes h
    exact ⟨hmin, hmax, fun X => deframe_ok_append (deframe_ok_take h) X⟩
  case incomplete =>
    exact ⟨rfl, ⟨[], rfl⟩, ⟨[0x7E, 1, 0, 0, 0xE7], ⟨1, []⟩, 5, by decide⟩,
      ⟨[0, 1, 2, 3], .startSentinel, by decide⟩⟩

/-- Settles O9: encode lays the frame out, and decode of a frame in front of anything answers its packet. -/
theorem decodeInvertsEncode : Obligations.DecodeInvertsEncode := by
  intro id P X h
  exact ⟨_, enframe_fits id P h, (deframe_frameBytes id P X Config.EOF h).trans (if_neg (not_not.2 rfl))⟩

/-- A length that fits the length field is the sum of its two bytes (R142). -/
theorem eq_toNat_lo8_add_hi8 {n : Nat} (h : n ≤ 65535) : n = (lo8 n).toNat + 256 * (hi8 n).toNat := by
  rw [← toNat_u16le, toNat_u16le_lo8_hi8 n h]

/-- The byte that completes a frame is the end sentinel, behind a header and the whole payload (R111). -/
theorem deframe_ok_last {B : List Byte} {d : Byte} {p : Packet}
    (h : deframe (B ++ [d]) = .ok p (B.length + 1)) :
    d = Config.EOF ∧ B = [Config.SOF, p.id, lo8 p.payload.length, hi8 p.payload.length] ++ p.payload ∧
      p.payload.length ≤ 65535 := by
  obtain ⟨hfits, hn, X, hX⟩ := deframe_ok_frame h
  have hnil : X = [] := by
    have := congrArg List.length hX
    simp at this
    exact List.length_eq_zero_iff.1 (by omega)
  rw [hnil, List.append_nil, frameBytes] at hX
  obtain ⟨hB, hd⟩ := List.append_inj' hX rfl
  exact ⟨List.singleton_inj.1 hd, hB, hfits⟩

/-! ### RX_BYTE: what it does, by what decode answers of the buffer with the byte (R110, R111, R113) -/

theorem receiveByte_waits {s : State} {d : Byte} (hf : s.fault = 0)
    (h : deframe (s.rxbuf ++ [d]) = .incomplete) : receiveByte d s = bufAppend d s := by
  rw [receiveByte_running hf, drain_incomplete (by exact h)]

theorem receiveByte_faults {s : State} {d : Byte} {k : FramingCause} (hf : s.fault = 0)
    (h : deframe (s.rxbuf ++ [d]) = .err k) : receiveByte d s = raiseFramingError k (bufAppend d s) := by
  rw [receiveByte_running hf, drain_err (by exact h)]

/-- When decode makes a packet of the whole buffer, draining emits it and finds nothing more. -/
theorem receiveByte_emits {s : State} {d : Byte} {p : Packet} (hf : s.fault = 0)
    (h : deframe (s.rxbuf ++ [d]) = .ok p (s.rxbuf.length + 1)) :
    receiveByte d s = { s with rxbuf := [], pktOut := s.pktOut ++ [p] } := by
  rw [receiveByte_running hf, drain_ok (by exact h), drain_incomplete (deframe_short _ (by simp))]
  simp [bufConsume, emitPkt, bufAppend]

/-- After a whole payload the end sentinel emits the packet (R111). -/
theorem receiveByte_endSentinel {s : State} {id lo hi : Byte} {P : List Byte} (hf : s.fault = 0)
    (hP : P.length = lo.toNat + 256 * hi.toNat) (hb : s.rxbuf = [0x7E, id, lo, hi] ++ P) :
    receiveByte Config.EOF s = { s with rxbuf := [], pktOut := s.pktOut ++ [⟨id, P⟩] } := by
  have hd := deframe_whole hP id Config.EOF []
  rw [List.append_nil, if_neg (not_not.2 rfl), ← hb] at hd
  refine receiveByte_emits hf (hd.trans ?_)
  rw [hb]
  simp; omega

/-- After a whole payload any other byte is a FramingError(END) (R204). -/
theorem receiveByte_badEnd {s : State} {id lo hi d : Byte} {P : List Byte} (hf : s.fault = 0)
    (hP : P.length = lo.toNat + 256 * hi.toNat) (hb : s.rxbuf = [0x7E, id, lo, hi] ++ P) (hd : d ≠ Config.EOF) :
    receiveByte d s = raiseFramingError .endSentinel (bufAppend d s) := by
  have he := deframe_whole hP id d []
  rw [List.append_nil, if_pos hd, ← hb] at he
  exact receiveByte_faults hf he

/-- Settles O13: the end sentinel makes decode answer the packet, and a packet appears in no other case of
`receiveByte_cases`. -/
theorem endSentinelEmitsPacket : Obligations.EndSentinelEmitsPacket := by
  refine ⟨fun s id lo hi P hf hP hb => congrArg _ (receiveByte_endSentinel hf hP hb), fun s t d hs he hne => ?_⟩
  obtain rfl : receiveByte d s = t := by simpa using he
  obtain hf | hf := fault_cases s
  · have hi := hs.incompleteWhileRunning hf
    obtain ⟨-, heq⟩ | ⟨k, -, heq⟩ | ⟨p, hok, heq⟩ := receiveByte_cases s d hi hf
    · simp [heq] at hne
    · simp [heq] at hne
    · obtain ⟨hd, hb, hfits⟩ := deframe_ok_last hok
      refine ⟨hd, hf, p.id, lo8 p.payload.length, hi8 p.payload.length, p.payload,
        eq_toNat_lo8_add_hi8 hfits, hb, by rw [heq]⟩
  · simp [receiveByte_fault hf] at hne

/-- Settles O17: bytes in FAULT are dropped, and what another instruction leaves there is `exec_in_fault`. -/
theorem faultDropsBytesUntilReset : Obligations.FaultDropsBytesUntilReset := by
  refine ⟨fun s d hf => congrArg _ (receiveByte_fault hf d), fun s i hf hr => ?receives, fun s t i hf hi he => ?other⟩
  case receives =>
    obtain ⟨c, hc⟩ := exec_receives hr
    rw [hc, receive_fault hf]
  case other =>
    obtain ⟨hreset, -⟩ | ⟨-, hfault, hcause, hpkt⟩ := exec_in_fault hf he
    · exact absurd hreset hi
    · exact ⟨hfault.trans hf, hcause, hpkt⟩

/-- The drain loop after one byte: a first pass that may emit the whole buffer, a second that finds it empty (R113). -/
theorem drain_bufAppend_eq_two_passes {s : State} (hi : deframe s.rxbuf = .incomplete) (d : Byte) :
    drain (bufAppend d s) = drainLoop 2 (bufAppend d s) := by
  rw [drain_eq, drainLoop]
  cases hd : deframe (bufAppend d s).rxbuf with
  | incomplete => rfl
  | err k => rfl
  | ok p n =>
    obtain rfl := deframe_ok_completes hi hd
    have hempty : (bufConsume (s.rxbuf.length + 1) (emitPkt p (bufAppend d s))).rxbuf = [] := by simp
    show drain _ = drainLoop 1 _
    rw [drain, hempty]
    rfl

/-- Settles O18: in FAULT nothing happens, and a running block has the three cases of `receiveByte_cases`. -/
theorem oneByteEmitsAtMostOnePacket : Obligations.OneByteEmitsAtMostOnePacket := by
  intro s t d hs he
  obtain rfl : receiveByte d s = t := by simpa using he
  obtain hf | hf := fault_cases s
  · have hi := hs.incompleteWhileRunning hf
    have htwo := drain_bufAppend_eq_two_passes hi d
    obtain ⟨-, heq⟩ | ⟨k, -, heq⟩ | ⟨p, hok, heq⟩ := receiveByte_cases s d hi hf
    · exact ⟨.inl (by rw [heq]; rfl), fun _ h1 => by simp [heq, hf] at h1, fun _ => htwo⟩
    · exact ⟨.inl (by rw [heq]; rfl), fun _ _ => by rw [heq]; exact ⟨rfl, rfl⟩, fun _ => htwo⟩
    · exact ⟨.inr ⟨p, hok, heq⟩, fun _ h1 => by simp [heq, hf] at h1, fun _ => htwo⟩
  · rw [receiveByte_fault hf]
    exact ⟨.inl rfl, fun h0 => by simp [hf] at h0, fun h0 => by simp [hf] at h0⟩

/-! ### The state machine of R115 -/

/-- A running block of the invariant holds part of a header, or a header that starts with SOF and at most the payload it
announces (R25). -/
theorem buffer_cases_of_incomplete {B : List Byte} (h : deframe B = .incomplete) :
    B.length < 4 ∨ ∃ id lo hi P, B = [0x7E, id, lo, hi] ++ P ∧ P.length ≤ lo.toNat + 256 * hi.toNat := by
  obtain hB | ⟨_, _, _, _, _, rfl, h0⟩ | ⟨id, lo, hi, P, rfl⟩ := buffer_cases B
  · exact .inl hB
  · simp [deframe_badStart _ _ _ _ _ h0] at h
  · refine .inr ⟨id, lo, hi, P, rfl, ?_⟩
    rw [deframe_header] at h
    split_ifs at h with hle
    rwa [toNat_u16le] at hle

theorem phase_fault {s : State} (hf : s.fault = 1) : phase s = some .fault := by
  simp [phase, hf]

theorem phase_hdr {s : State} (hf : s.fault = 0) (hlen : s.rxbuf.length < 4) :
    phase s = some (.hdr s.rxbuf.length) := by
  simp [phase, hf, hlen]

/-- Behind a whole header the phase tells how much of the payload is held. -/
theorem phase_header {s : State} {id lo hi : Byte} {P : List Byte} (hf : s.fault = 0)
    (hb : s.rxbuf = [0x7E, id, lo, hi] ++ P) (hP : P.length ≤ lo.toNat + 256 * hi.toNat) :
    phase s = some (if P.length = lo.toNat + 256 * hi.toNat then .tail (lo.toNat + 256 * hi.toNat)
      else .body (lo.toNat + 256 * hi.toNat) P.length) := by
  have hL : (u16le (byteAt s.rxbuf 2) (byteAt s.rxbuf 3)).toNat = lo.toNat + 256 * hi.toNat := by
    rw [hb]; exact toNat_u16le lo hi
  have hlen : s.rxbuf.length = 4 + P.length := by rw [hb]; simp; omega
  simp only [phase, hL, hlen, hf, HDR_LEN_eq, Nat.add_sub_cancel_left]
  rw [if_neg (by decide), if_neg (by omega)]
  obtain hlt | hwhole := hP.lt_or_eq
  · rw [if_pos hlt, if_neg hlt.ne]
  · rw [if_neg hwhole.not_lt, if_pos (by rw [hwhole]), if_pos hwhole]

/-! The rows of the table, the faulting ones by the FramingError they take. -/

theorem phaseTable_hdr (s : State) (d : Byte) {n : Nat} (h : n ≠ 3) :
    phaseTable s d (.hdr n) = (bufAppend d s, .hdr (n + 1)) := by
  simp [phaseTable]

theorem phaseTable_goodStart {s : State} (h : byteAt s.rxbuf 0 = Config.SOF) (d : Byte) :
    phaseTable s d (.hdr 3) = (bufAppend d s, if (u16le (byteAt s.rxbuf 2) d).toNat = 0 then .tail 0
      else .body (u16le (byteAt s.rxbuf 2) d).toNat 0) :=
  if_pos h

theorem phaseTable_badStart {s : State} (h : byteAt s.rxbuf 0 ≠ Config.SOF) (d : Byte) :
    phaseTable s d (.hdr 3) = (raiseFramingError .startSentinel (bufAppend d s), .fault) :=
  if_neg h

theorem phaseTable_goodEnd (s : State) (L : Nat) :
    phaseTable s Config.EOF (.tail L) = ({ s with rxbuf := [], pktOut :=
      s.pktOut ++ [⟨byteAt s.rxbuf 1, slice s.rxbuf 4 (4 + L)⟩] }, .hdr 0) := by
  simp [phaseTable]

theorem phaseTable_badEnd (s : State) {d : Byte} (h : d ≠ Config.EOF) (L : Nat) :
    phaseTable s d (.tail L) = (raiseFramingError .endSentinel (bufAppend d s), .fault) :=
  if_neg h

/-- In a state of phase `ph` RX_BYTE gives the state and the phase of the table's row (R115). -/
def FollowsTable (s : State) (d : Byte) (ph : Phase) : Prop :=
  receiveByte d s = (phaseTable s d ph).1 ∧ phase (phaseTable s d ph).1 = some (phaseTable s d ph).2

theorem FollowsTable.of_row {s t : State} {d : Byte} {ph ph' : Phase} (hrow : phaseTable s d ph = (t, ph'))
    (hnext : receiveByte d s = t) (hph : phase t = some ph') : FollowsTable s d ph := by
  rw [FollowsTable, hrow]
  exact ⟨hnext, hph⟩

theorem followsTable_fault {s : State} (hf : s.fault = 1) (d : Byte) : FollowsTable s d .fault :=
  .of_row rfl (receiveByte_fault hf d) (phase_fault hf)

/-- The first three bytes of a header are held, whatever they are. -/
theorem followsTable_hdr {s : State} (hf : s.fault = 0) (hlen : s.rxbuf.length < 3) (d : Byte) :
    FollowsTable s d (.hdr s.rxbuf.length) := by
  have hlen' : (bufAppend d s).rxbuf.length = s.rxbuf.length + 1 := by simp
  exact .of_row (phaseTable_hdr s d (by omega)) (receiveByte_short hf hlen d)
    (hlen' ▸ phase_hdr hf (by omega))

/-- The fourth byte completes the header, and the start sentinel is tested. -/
theorem followsTable_hdr_three {s : State} (hf : s.fault = 0) (hlen : s.rxbuf.length = 3) (d : Byte) :
    FollowsTable s d (.hdr s.rxbuf.length) := by
  obtain ⟨b0, b1, b2, hb⟩ := List.length_eq_three.1 hlen
  have happ : s.rxbuf ++ [d] = [b0, b1, b2, d] := by rw [hb]; rfl
  have hat : byteAt s.rxbuf 0 = b0 := by rw [hb]; rfl
  rw [hlen]
  by_cases h0 : b0 = Config.SOF
  · have happ' : s.rxbuf ++ [d] = [0x7E, b1, b2, d] ++ [] := by rw [happ, h0]; rfl
    refine .of_row (phaseTable_goodStart (hat.trans h0) d)
      (receiveByte_waits hf (happ' ▸ deframe_partial (Nat.zero_le _) b1)) ?_
    rw [phase_header (s := bufAppend d s) hf happ' (Nat.zero_le _), ← toNat_u16le, hb]
    show some (if 0 = (u16le b2 d).toNat then _ else _) = some (if (u16le b2 d).toNat = 0 then _ else _)
    obtain hL | hL := eq_or_ne (u16le b2 d).toNat 0
    · rw [if_pos hL.symm, if_pos hL, hL]
    · rw [if_neg hL.symm, if_neg hL]; rfl
  · exact .of_row (phaseTable_badStart (hat ▸ h0) d)
      (receiveByte_faults hf (happ ▸ deframe_badStart b0 b1 b2 d [] h0)) (phase_fault rfl)

/-- A payload byte is held, whatever it is. -/
theorem followsTable_body {s : State} {id lo hi : Byte} {P : List Byte} (hf : s.fault = 0)
    (hb : s.rxbuf = [0x7E, id, lo, hi] ++ P) (hP : P.length < lo.toNat + 256 * hi.toNat) (d : Byte) :
    FollowsTable s d (.body (lo.toNat + 256 * hi.toNat) P.length) := by
  have happ : s.rxbuf ++ [d] = [0x7E, id, lo, hi] ++ (P ++ [d]) := by rw [hb, List.append_assoc]
  have hlen : (P ++ [d]).length = P.length + 1 := by simp
  have hP' : (P ++ [d]).length ≤ lo.toNat + 256 * hi.toNat := by omega
  exact .of_row rfl (receiveByte_waits hf (happ ▸ deframe_partial hP' id))
    (hlen ▸ phase_header (s := bufAppend d s) hf happ hP')

/-- Behind the payload the end sentinel is tested. -/
theorem followsTable_tail {s : State} {id lo hi : Byte} {P : List Byte} (hf : s.fault = 0)
    (hb : s.rxbuf = [0x7E, id, lo, hi] ++ P) (hP : P.length = lo.toNat + 256 * hi.toNat) (d : Byte) :
    FollowsTable s d (.tail (lo.toNat + 256 * hi.toNat)) := by
  by_cases hd : d = Config.EOF
  · have hid : byteAt s.rxbuf 1 = id := by rw [hb]; rfl
    have hpayload : slice s.rxbuf 4 (4 + (lo.toNat + 256 * hi.toNat)) = P := by simp [slice, hb, ← hP]
    subst hd
    refine .of_row (phaseTable_goodEnd s _) ?_ (phase_hdr hf (Nat.succ_pos 3))
    rw [receiveByte_endSentinel hf hP hb, hid, hpayload]
  · exact .of_row (phaseTable_badEnd s hd _) (receiveByte_badEnd hf hP hb hd) (phase_fault rfl)

/-- Settles O20: the phase of each state of the invariant and its row of the table. -/
theorem receivePathIsStateMachine : Obligations.ReceivePathIsStateMachine := by
  intro s hs
  suffices h : ∃ ph, phase s = some ph ∧ (ph ≠ .fault → 4 ≤ s.rxbuf.length → s.rxbuf.getD 0 0 = 0x7E) ∧
      ∀ d, FollowsTable s d ph by
    obtain ⟨ph, hph, hsof, hrow⟩ := h
    exact ⟨ph, hph, hsof, fun d => ⟨congrArg _ (hrow d).1, (hrow d).2⟩⟩
  obtain hf | hf := fault_cases s
  · obtain hshort | ⟨id, lo, hi, P, hb, hP⟩ := buffer_cases_of_incomplete (hs.incompleteWhileRunning hf)
    · refine ⟨_, phase_hdr hf hshort, fun _ h4 => absurd h4 (by omega), fun d => ?_⟩
      obtain h3 | h3 := Nat.lt_or_eq_of_le (Nat.lt_succ_iff.1 hshort)
      · exact followsTable_hdr hf h3 d
      · exact followsTable_hdr_three hf h3 d
    · refine ⟨_, phase_header hf hb hP, fun _ _ => by rw [hb]; rfl, fun d => ?_⟩
      split_ifs with hwhole
      · exact followsTable_tail hf hb hwhole d
      · exact followsTable_body hf hb (by omega) d
  · exact ⟨.fault, phase_fault hf, fun h => absurd rfl h, followsTable_fault hf⟩

/-! ### RX_CHUNK (R116) -/

@[simp] theorem exec_rxChunk (c : List Byte) (s : State) : exec (.rxChunk c) s = .next (receive c s) := rfl

/-- Bytes that leave the frame partial are only appended. -/
theorem receive_waits {s : State} {c : List Byte} (hf : s.fault = 0)
    (h : deframe (s.rxbuf ++ c) = .incomplete) : receive c s = { s with rxbuf := s.rxbuf ++ c } := by
  induction c generalizing s with
  | nil => simp
  | cons d c ih =>
    rw [List.append_cons] at h
    rw [receive_cons, receiveByte_waits hf (deframe_incomplete_of_append h), ih (by exact hf) (by exact h)]
    simp [bufAppend]

/-- From a frame boundary a whole frame is received as its packet. -/
theorem receive_frameBytes {s : State} {P : List Byte} (hf : s.fault = 0) (hb : s.rxbuf = [])
    (hP : P.length ≤ 65535) (id : Byte) :
    receive (frameBytes id P Config.EOF) s = { s with pktOut := s.pktOut ++ [⟨id, P⟩] } := by
  have hlen := eq_toNat_lo8_add_hi8 hP
  have hwait : receive ([0x7E, id, lo8 P.length, hi8 P.length] ++ P) s =
      { s with rxbuf := [0x7E, id, lo8 P.length, hi8 P.length] ++ P } := by
    have hpart : deframe (s.rxbuf ++ ([0x7E, id, lo8 P.length, hi8 P.length] ++ P)) = .incomplete := by
      rw [hb]
      exact deframe_partial hlen.le id
    rw [receive_waits hf hpart, hb, List.nil_append]
  rw [← frameBytes_of_length hlen, receive_append, hwait, receive_cons, receive_nil,
    receiveByte_endSentinel (by exact hf) hlen rfl]
  simp [hb]

/-- From a frame boundary frames one after the other are received as their packets in order (R116). -/
theorem receive_frames {s : State} {ps : List Packet} (hf : s.fault = 0) (hb : s.rxbuf = [])
    (hps : ∀ p ∈ ps, p.payload.length ≤ 65535) :
    receive (ps.flatMap fun p => frameBytes p.id p.payload Config.EOF) s =
      { s with pktOut := s.pktOut ++ ps } := by
  induction ps generalizing s with
  | nil => simp
  | cons p ps ih =>
    obtain ⟨hp, hps⟩ := List.forall_mem_cons.1 hps
    rw [List.flatMap_cons, receive_append, receive_frameBytes hf hb hp, ih (by exact hf) (by exact hb) hps]
    simp

/-- Settles O23: a chunk is its bytes received in order, and the frames of any packets are received as those packets. -/
theorem streamIsReassembledWhateverTheSplit : Obligations.StreamIsReassembledWhateverTheSplit := by
  refine ⟨fun s a b => ?split, fun s ps hf hb hps c hc => ?frames⟩
  case split => rw [exec_rxChunk, receive_append]; rfl
  case frames =>
    have h : receive c s = { s with pktOut := s.pktOut ++ ps } := hc ▸ receive_frames hf hb hps
    rw [exec_rxChunk, execAll_map_rxByte, h]
    exact ⟨rfl, rfl⟩

end Sys2Proof.Machine
end

section
/-! The encoder, the transmit path, and its independence of the receive path: the statements of spec/41_framer.md (O10,
O28, O36). -/

namespace Sys2Proof.Machine

/-! ### What encode lays out (R140, R142) -/

/-- The high byte of a length that fits the length field is not cut. -/
theorem toNat_hi8_of_le {n : Nat} (h : n ≤ 65535) : (hi8 n).toNat = n / 256 := by
  rw [toNat_hi8]; omega

/-- A successful encode is decoded, whole, as what was encoded. -/
theorem deframe_of_enframe_ok {id : Byte} {P f : List Byte} (h : enframe id P = .ok f) :
    deframe f = .ok ⟨id, P⟩ (5 + P.length) := by
  obtain hP | hP := Nat.lt_or_ge 65535 P.length
  · simp [enframe_tooLarge id P hP] at h
  · obtain ⟨f', henc, hdec⟩ := decodeInvertsEncode id P [] hP
    rw [henc] at h
    cases h
    rwa [List.append_nil] at hdec

theorem enframe_injective {id id' : Byte} {P P' f : List Byte} (h : enframe id P = .ok f)
    (h' : enframe id' P' = .ok f) : id = id' ∧ P = P' := by
  have heq := (deframe_of_enframe_ok h).symm.trans (deframe_of_enframe_ok h')
  cases heq
  exact ⟨rfl, rfl⟩

/-! ### Neither path reads the other's state (R143) -/

/-- What a transmission appends to `tx_out` and to the responses is the same in every state. -/
theorem transmit_appends_same (id : Byte) (P : List Byte) : ∃ bytes answer, ∀ s : State,
    (transmit id P s).txOut = s.txOut ++ bytes ∧ (transmit id P s).responses = s.responses ++ answer := by
  obtain hP | hP := Nat.lt_or_ge 65535 P.length
  · exact ⟨[], [.txResult 1], fun s => by simp [transmit_tooLarge id P s hP]⟩
  · exact ⟨frameBytes id P Config.EOF, [.txResult 0], fun s => by simp [transmit_fits id P s hP]⟩

/-- The receive path of `s` beside what `u` has transmitted, answered and not yet taken. -/
def withTransmitSide (u s : State) : State :=
  { s with txOut := u.txOut, responses := u.responses, requests := u.requests }

@[simp] theorem withTransmitSide_rxbuf (u s : State) : (withTransmitSide u s).rxbuf = s.rxbuf := rfl
@[simp] theorem withTransmitSide_fault (u s : State) : (withTransmitSide u s).fault = s.fault := rfl
@[simp] theorem withTransmitSide_cause (u s : State) : (withTransmitSide u s).cause = s.cause := rfl
@[simp] theorem withTransmitSide_pktOut (u s : State) : (withTransmitSide u s).pktOut = s.pktOut := rfl

/-- Two states with the same receive path differ in the transmit side alone. -/
theorem eq_withTransmitSide {s s' : State} (hb : s.rxbuf = s'.rxbuf) (hf : s.fault = s'.fault)
    (hc : s.cause = s'.cause) (hp : s.pktOut = s'.pktOut) : s' = withTransmitSide s' s := by
  rw [withTransmitSide, hb, hf, hc, hp]

theorem drainLoop_withTransmitSide (fuel : Nat) (u s : State) :
    drainLoop fuel (withTransmitSide u s) = withTransmitSide u (drainLoop fuel s) := by
  induction fuel generalizing s with
  | zero => rfl
  | succ fuel ih =>
    rw [drainLoop, drainLoop, withTransmitSide_rxbuf]
    cases deframe s.rxbuf with
    | incomplete => rfl
    | err k => rfl
    | ok p n => exact ih (bufConsume n (emitPkt p s))

theorem receiveByte_withTransmitSide (d : Byte) (u s : State) :
    receiveByte d (withTransmitSide u s) = withTransmitSide u (receiveByte d s) := by
  obtain hf | hf := fault_cases s
  · rw [receiveByte_running hf, receiveByte_running (s := withTransmitSide u s) hf]
    exact drainLoop_withTransmitSide _ u (bufAppend d s)
  · rw [receiveByte_fault hf, receiveByte_fault (s := withTransmitSide u s) hf]

/-- The receive path does the same beside any transmit side. -/
theorem receive_withTransmitSide (c : List Byte) (u s : State) :
    receive c (withTransmitSide u s) = withTransmitSide u (receive c s) := by
  induction c generalizing s with
  | nil => rfl
  | cons d c ih => rw [receive_cons, receive_cons, receiveByte_withTransmitSide, ih]

/-! ### The statements -/

/-- Settles O10: the layout and the refusal are encode's two cases; it is injective because decode inverts it. -/
theorem encodeLayoutAndRefusal : Obligations.EncodeLayoutAndRefusal :=
  ⟨fun id P h => ⟨lo8 P.length, hi8 P.length, enframe_fits id P h, toNat_lo8 _, toNat_hi8_of_le h⟩,
    enframe_tooLarge, fun _ _ _ _ _ => enframe_injective⟩

/-- Settles O28: the two cases of a transmission. -/
theorem txFrameSendsOrRefuses : Obligations.TxFrameSendsOrRefuses := by
  refine fun s id P => ⟨fun h => ⟨lo8 P.length, hi8 P.length, toNat_lo8 _, toNat_hi8_of_le h, ?sent⟩, fun h => ?refused⟩
  case sent => rw [exec_txFrame, transmit_fits id P s h]; rfl
  case refused => rw [exec_txFrame, transmit_tooLarge id P s h]; rfl

/-- Settles O36: a transmission appends the same in both states; the second reception is the first beside another
transmit side. -/
theorem pathsDoNotReadEachOther : Obligations.PathsDoNotReadEachOther := by
  refine ⟨fun s s' t t' i hi htx hresp ht ht' => ?transmits,
    fun s s' t t' i hi hb hf hc hp ht ht' => ?receives⟩
  case transmits =>
    obtain ⟨id, P, hexec⟩ := exec_transmits hi
    obtain ⟨bytes, answer, happ⟩ := transmit_appends_same id P
    rw [hexec] at ht ht'
    cases ht; cases ht'
    simp [happ, htx, hresp]
  case receives =>
    obtain ⟨c, hexec⟩ := exec_receives hi
    rw [hexec] at ht ht'
    cases ht; cases ht'
    rw [eq_withTransmitSide hb hf hc hp, receive_withTransmitSide]
    exact ⟨rfl, rfl, rfl, rfl⟩

end Sys2Proof.Machine
end

section
/-! The frame builders and the parameter response: the statements of spec/42_packets.md (O29, O30, O31, O32, O33). -/

namespace Sys2Proof.Machine

/-! ### The builders, each one transmission (R162, R165, R166) -/

@[simp] theorem exec_paramReq (s : State) :
    exec .paramReq s = .next (transmit Config.ID_PARAM paramReqPayload s) := rfl

@[simp] theorem exec_configure (fw : Half) (brk mab rate : Byte) (s : State) :
    exec (.configure fw brk mab rate) s = .next (transmit Config.ID_CONFIG (paramPayload fw brk mab rate) s) := rfl

@[simp] theorem exec_render (v : List Byte) (sc : Byte) (s : State) :
    exec (.render v sc) s = .next (transmit Config.ID_RENDER (renderPayload v sc) s) := rfl

/-- A payload whose length is that of a header written out is sent behind that header (R71, R141). -/
theorem transmit_of_length {lo hi : Byte} {P : List Byte} (h : P.length = lo.toNat + 256 * hi.toNat) (id : Byte)
    (s : State) : transmit id P s = { s with
      txOut := s.txOut ++ ([0x7E, id, lo, hi] ++ P ++ [0xE7]), responses := s.responses ++ [.txResult 0] } := by
  have hfits : P.length ≤ 65535 := by
    rw [h, ← toNat_u16le]
    exact toNat_u16le_le lo hi
  rw [transmit_fits id P s hfits, ← frameBytes_of_length h]
  rfl

/-! ### PARAM_DECODE (R164) -/

/-- The four fields stand in their declared order, the firmware version in the first two bytes. -/
theorem paramDecode_fields (p0 p1 p2 p3 p4 : Byte) :
    paramDecode ⟨3, [p0, p1, p2, p3, p4]⟩ = some {
      firmwareVersion := u16le p0 p1, breakTime := p2, markAfterBreakTime := p3, outputRate := p4 } :=
  if_pos ⟨rfl, rfl⟩

theorem paramDecode_refuses {p : Packet} (h : p.id ≠ 3 ∨ p.payload.length ≠ 5) : paramDecode p = none :=
  if_neg (not_and_or.2 h)

/-! ### The statements -/

/-- Settles O33: the chunk is one whole frame of identifier 3, and its packet has the parameter response's length. -/
theorem receivedParametersDecode : Obligations.ReceivedParametersDecode := by
  refine fun s p0 p1 p2 p3 p4 hf hb => ⟨?received, paramDecode_fields p0 p1 p2 p3 p4, toNat_u16le p0 p1⟩
  have hframe : [0x7E, 0x03, 0x05, 0x00, p0, p1, p2, p3, p4, 0xE7] =
      frameBytes 3 [p0, p1, p2, p3, p4] Config.EOF :=
    frameBytes_of_length (lo := 5) (hi := 0) (P := [p0, p1, p2, p3, p4]) rfl 3 Config.EOF
  rw [exec_rxChunk, hframe, receive_frameBytes hf hb (by simp)]

/-- Settles O29: the request's two zero bytes are a payload of length 2. -/
theorem paramReqSendsRequest : Obligations.ParamReqSendsRequest := by
  intro s
  have hlen : ([0x00, 0x00] : List Byte).length = (2 : Byte).toNat + 256 * (0 : Byte).toNat := rfl
  rw [exec_paramReq, paramReqPayload_eq, transmit_of_length hlen]
  rfl

/-- Settles O30: whatever their values, the four fields are a payload of length 5, the firmware version cut into its two
bytes. -/
theorem configureSendsParameters : Obligations.ConfigureSendsParameters := by
  intro s fw brk mab rate
  have hlen : (paramPayload fw brk mab rate).length = (5 : Byte).toNat + 256 * (0 : Byte).toNat :=
    length_paramPayload fw brk mab rate
  rw [exec_configure, transmit_of_length hlen, paramPayload, lo8_toNat_half, hi8_toNat_half]
  rfl

/-- Settles O31: the start code before the values makes the payload one byte longer than N, so the limit of a
transmission falls at N = 65534. -/
theorem renderSendsChannels : Obligations.RenderSendsChannels := by
  refine fun s v sc => ⟨fun h => ?sent, fun h => ?refused⟩
  case sent =>
    have hfits : 1 + v.length ≤ 65535 := by omega
    have hlen := (length_renderPayload v sc).trans (eq_toNat_lo8_add_hi8 hfits)
    refine ⟨lo8 (1 + v.length), hi8 (1 + v.length), toNat_lo8 _, toNat_hi8_of_le hfits, ?_⟩
    rw [exec_render, transmit_of_length hlen]
    rfl
  case refused =>
    rw [exec_render, transmit_tooLarge _ _ s (by rw [length_renderPayload]; omega)]
    rfl

/-- Settles O32: the two cases of PARAM_DECODE. -/
theorem paramDecodeReadsFields : Obligations.ParamDecodeReadsFields :=
  ⟨fun p0 p1 p2 p3 p4 => ⟨_, paramDecode_fields p0 p1 p2 p3 p4, toNat_u16le p0 p1, rfl, rfl, rfl⟩,
    fun _ => paramDecode_refuses⟩

end Sys2Proof.Machine
end

section
/-! RESET and STATUS_RD: the statements of spec/43_control.md (O3, O4). -/

namespace Sys2Proof.Machine

/-! ### The way out of FAULT (R190, R209) -/

/-- R209: an instruction that takes the block out of FAULT is RESET, for every other one leaves the flag. -/
theorem reset_of_exec_leaves_fault {i : Instr} {s t : State} (hf : s.fault = 1) (he : exec i s = .next t)
    (ht : t.fault = 0) : i = .reset := by
  obtain ⟨hi, -⟩ | ⟨-, hkept, -, -⟩ := exec_in_fault hf he
  · exact hi
  · have hboth : (0 : BitVec 1) = 1 := ht.symm.trans (hkept.trans hf)
    exact absurd hboth (by decide)

/-! ### The STATUS word as its fields (R26, R191) -/

/-- R26: the reserved bits, the cause and the fault flag stand side by side, so the shift and the `|` lose nothing. -/
theorem statusWord_eq_append (s : State) : statusWord s = (0 : BitVec 5) ++ s.cause ++ s.fault := by
  have hfields : ∀ (c : BitVec 2) (f : BitVec 1),
      c.zeroExtend 8 <<< 1 ||| f.zeroExtend 8 = (0 : BitVec 5) ++ c ++ f := by decide
  exact hfields s.cause s.fault

theorem statusWord_fault_bit (s : State) : (statusWord s).extractLsb' 0 1 = s.fault := by
  rw [statusWord_eq_append, BitVec.extractLsb'_append_eq_right]

theorem statusWord_cause_bits (s : State) : (statusWord s).extractLsb' 1 2 = s.cause := by
  rw [statusWord_eq_append, BitVec.extractLsb'_append_eq_of_le (by decide), BitVec.extractLsb'_append_eq_right]

theorem statusWord_reserved_bits (s : State) : (statusWord s).extractLsb' 3 5 = 0 := by
  rw [statusWord_eq_append, BitVec.extractLsb'_append_eq_of_le (by decide),
    BitVec.extractLsb'_append_eq_of_le (by decide), BitVec.extractLsb'_eq_self]

/-- The STATUS word of a state whose flag and cause are known. -/
theorem statusWord_of_flags {s : State} {f : BitVec 1} {c : BitVec 2} (hf : s.fault = f) (hc : s.cause = c) :
    statusWord s = (0 : BitVec 5) ++ c ++ f := by
  rw [statusWord_eq_append, hf, hc]

/-! ### The statements -/

/-- Settles O3: RESET is `clearReceivePath`, which is idempotent, and no other instruction clears the flag. -/
theorem resetClearsReceivePath : Obligations.ResetClearsReceivePath := by
  refine fun s => ⟨exec_reset s, ?twice, fun _ _ => reset_of_exec_leaves_fault⟩
  rw [execAll_twice (exec_reset s), exec_reset, exec_reset, clearReceivePath_clearReceivePath]

/-- Settles O4: the response is `statusWord`, its fields read off in every state; in the states of the invariant the
cause is 0 while running, and `statusWord_legal` leaves three values. -/
theorem statusReadAnswersStatusWord : Obligations.StatusReadAnswersStatusWord := by
  refine fun s => ⟨statusWord s, exec_statusRd s, rfl, statusWord_fault_bit s, statusWord_cause_bits s,
    statusWord_reserved_bits s, fun h => ⟨fun hf => ?running, fun ⟨hf, hc⟩ => ?start, fun ⟨hf, hc⟩ => ?endFault,
    h.statusWord_legal⟩⟩
  case running => exact statusWord_of_flags hf (h.noCauseWhileRunning hf)
  case start => exact statusWord_of_flags hf hc
  case endFault => exact statusWord_of_flags hf hc

end Sys2Proof.Machine
end

section
/-! Entry into FAULT, its one way out, and that no instruction is ever stopped: the statements of
spec/60_exceptions.md (O14, O15, O19, O55, O49). -/

namespace Sys2Proof.Machine

/-! ### Entry into FAULT (R202, R203, R204, R205) -/

/-- R203: taking a FramingError with the byte just appended sets the buffer and the two flags, and nothing else. -/
theorem raiseFramingError_bufAppend {s : State} {B : List Byte} (hb : s.rxbuf = B) (k : FramingCause) (d : Byte) :
    raiseFramingError k (bufAppend d s) = { s with rxbuf := B ++ [d], fault := 1, cause := k.code } := by
  rw [← hb]; rfl

/-- R202: the fourth byte completes a header whose first byte is bad, and the fault is taken with it. -/
theorem receiveByte_badStart {s : State} {b0 b1 b2 : Byte} (hf : s.fault = 0) (hb : s.rxbuf = [b0, b1, b2])
    (h0 : b0 ≠ Config.SOF) (d : Byte) : receiveByte d s = raiseFramingError .startSentinel (bufAppend d s) :=
  receiveByte_faults hf (hb ▸ deframe_badStart b0 b1 b2 d [] h0)

/-- Of the three things a byte can do to a running block, only a FramingError leads to FAULT. -/
theorem receiveByte_enters_fault {s : State} {d : Byte} (hi : deframe s.rxbuf = .incomplete) (hf : s.fault = 0)
    (ht : (receiveByte d s).fault = 1) :
    ∃ k, deframe (s.rxbuf ++ [d]) = .err k ∧ receiveByte d s = raiseFramingError k (bufAppend d s) := by
  obtain ⟨-, heq⟩ | hfault | ⟨p, -, heq⟩ := receiveByte_cases s d hi hf
  · simp [heq, hf] at ht
  · exact hfault
  · simp [heq, hf] at ht

/-- R209, R112: an instruction that takes a running block into FAULT receives bytes, for every other one leaves the flag
at 0 or clears it. -/
theorem receives_of_exec_enters_fault {i : Instr} {s t : State} (hf : s.fault = 0) (he : exec i s = .next t)
    (ht : t.fault = 1) : Receives i = true := by
  obtain ⟨hr, -⟩ | ⟨-, id, P, rfl⟩ | ⟨-, rfl⟩ | ⟨-, rfl⟩ := exec_cases he
  · exact hr
  · obtain ⟨-, hkept, -, -⟩ := transmit_leaves id P s
    simp [hkept, hf] at ht
  · simp [hf] at ht
  · simp at ht

/-! ### Every operation is available (R214) -/

/-- R214: no instruction faults or is refused, whatever the state. -/
theorem exec_total (i : Instr) (s : State) : ∃ t, exec i s = .next t := by
  obtain hr | ht | rfl | rfl := instr_cases i
  · obtain ⟨c, hc⟩ := exec_receives hr
    exact ⟨_, hc s⟩
  · obtain ⟨id, P, hP⟩ := exec_transmits ht
    exact ⟨_, hP s⟩
  · exact ⟨_, exec_statusRd s⟩
  · exact ⟨_, exec_reset s⟩

@[simp] theorem transmit_requests (id : Byte) (P : List Byte) (s : State) :
    (transmit id P s).requests = s.requests := by
  obtain ⟨-, heq⟩ | ⟨-, heq⟩ := transmit_cases id P s <;> simp [heq]

/-- The requests presented are the owner's: no instruction touches them (log 1). -/
theorem exec_leaves_requests {i : Instr} {s t : State} (he : exec i s = .next t) : t.requests = s.requests := by
  obtain ⟨-, c, rfl⟩ | ⟨-, id, P, rfl⟩ | ⟨-, rfl⟩ | ⟨-, rfl⟩ := exec_cases he
  · obtain ⟨-, -, hreq⟩ := receive_leaves c s
    exact hreq
  · exact transmit_requests id P s
  · rfl
  · rfl

/-! ### The statements -/

/-- Settles O14: behind a whole payload a byte other than EOF raises FramingError(END). -/
theorem badEndSentinelFaults : Obligations.BadEndSentinelFaults := by
  intro s id lo hi d P hf hP hb hd
  rw [exec_rxByte, receiveByte_badEnd hf hP hb hd, raiseFramingError_bufAppend hb]
  rfl

/-- Settles O15: the fourth byte raises FramingError(START), and an earlier one is only held. -/
theorem badStartSentinelFaultsAtFourthByte : Obligations.BadStartSentinelFaultsAtFourthByte := by
  refine ⟨fun s b0 b1 b2 d hf hb h0 => ?fourth, fun s d hf hlen => congrArg _ (receiveByte_short hf hlen d)⟩
  rw [exec_rxByte, receiveByte_badStart hf hb h0, raiseFramingError_bufAppend hb]
  rfl

/-- Settles O19: the byte that leads to FAULT raised a FramingError, which keeps the buffer, and for each cause the buffer
is exactly the failing frame (`faultBuffer_of_deframe_err`). -/
theorem faultKeepsFailingFrame : Obligations.FaultKeepsFailingFrame := by
  intro s t d hs hf he ht
  obtain rfl : receiveByte d s = t := by simpa using he
  have hi := hs.incompleteWhileRunning hf
  obtain ⟨k, hk, heq⟩ := receiveByte_enters_fault hi hf ht
  have hframe := faultBuffer_of_deframe_err hi hk
  rw [heq]
  refine ⟨rfl, ?_⟩
  cases k with
  | startSentinel =>
    obtain ⟨hlen, -⟩ := hframe
    exact .inl ⟨rfl, hlen, hk⟩
  | endSentinel =>
    obtain ⟨-, hlen, -⟩ := hframe
    rw [headerLength_eq, ← Nat.add_assoc] at hlen
    exact .inr ⟨rfl, hlen, hk⟩

/-- Settles O55: only RESET leaves FAULT (`reset_of_exec_leaves_fault`), an instruction that does not leave it keeps cause
and buffer (`exec_in_fault`), and only receiving enters it. -/
theorem faultIsLeftOnlyByReset : Obligations.FaultIsLeftOnlyByReset := by
  refine fun i s t he =>
    ⟨fun hf ht => ?leaves, fun hf ht => ?stays, fun hf ht => receives_of_exec_enters_fault hf he ht⟩
  case leaves =>
    obtain rfl := reset_of_exec_leaves_fault hf he ht
    cases he
    exact ⟨rfl, rfl, rfl⟩
  case stays =>
    obtain ⟨-, rfl⟩ | ⟨hbuf, -, hcause, -⟩ := exec_in_fault hf he
    · simp at ht
    · exact ⟨hcause, hbuf⟩

/-- Settles O49: every instruction has a next state, and no next state touches the requests. -/
theorem everyInstructionCompletesEverywhere : Obligations.EveryInstructionCompletesEverywhere := by
  intro i s
  obtain ⟨t, ht⟩ := exec_total i s
  exact ⟨t, ht, exec_leaves_requests ht⟩

end Sys2Proof.Machine
end

section
/-! Power-on and RESET in mid-frame: the statements of spec/70_reset_and_hazards.md (O2, O5). -/

namespace Sys2Proof.Machine

/-! ### Bytes received after RESET (R190, R247) -/

/-- RESET, then operations RX_BYTE: the bytes are received by the cleared block, whatever it held before. -/
theorem execAll_reset_map_rxByte (c : List Byte) (s : State) :
    execAll (.reset :: c.map .rxByte) s = .next (receive c (clearReceivePath s)) :=
  execAll_map_rxByte c (clearReceivePath s)

/-- R247: bytes that only begin a frame are all a block holds after RESET, for nothing stands before them. -/
theorem receive_clearReceivePath_waits {c : List Byte} (h : deframe c = .incomplete) (s : State) :
    receive c (clearReceivePath s) = { s with rxbuf := c, fault := 0, cause := 0 } :=
  receive_waits (s := clearReceivePath s) rfl h

/-! ### The statements -/

/-- Settles O2: the fields are those of `State.reset`, and with both flags 0 the STATUS word is 0. -/
theorem powerOnStateIsEmpty : Obligations.PowerOnStateIsEmpty :=
  ⟨rfl, rfl, rfl, rfl, rfl, statusWord_of_flags rfl rfl⟩

/-- Settles O5: after RESET three bytes are short of a header and are held alone; the fourth completes a header whose
first byte is not SOF, and the fault is taken. -/
theorem resetMidFrameRestartsFraming : Obligations.ResetMidFrameRestartsFraming := by
  intro s b0 b1 b2 b3 h0
  have hheld : receive [b0, b1, b2] (clearReceivePath s) = { s with rxbuf := [b0, b1, b2], fault := 0, cause := 0 } :=
    receive_clearReceivePath_waits (deframe_short _ (by simp)) s
  refine ⟨(execAll_reset_map_rxByte [b0, b1, b2] s).trans (congrArg _ hheld),
    (execAll_reset_map_rxByte [b0, b1, b2, b3] s).trans (congrArg _ ?fourth)⟩
  case fourth =>
    calc receive ([b0, b1, b2] ++ [b3]) (clearReceivePath s)
        = receiveByte b3 { s with rxbuf := [b0, b1, b2], fault := 0, cause := 0 } := by
          rw [receive_append, hheld, receive_cons, receive_nil]
      _ = { s with rxbuf := [b0, b1, b2, b3], fault := 1, cause := 1 } := by
          rw [receiveByte_badStart rfl rfl h0, raiseFramingError_bufAppend rfl]
          rfl

end Sys2Proof.Machine
end

section
/-! A step is idle or runs one instruction, so what every instruction keeps every step keeps: the two invariants and the
queue of requests (O40, O47, O48, O50, O51, O52, O54). -/

namespace Sys2Proof.Machine

/-! ### The three things a step can do (R21, R81, R219) -/

theorem step_idle {s : State} (h : s.requests = []) : step s = .next s := by
  rw [step, h]

theorem step_of_decode_ok {s : State} {r : Request} {rest : List Request} {i : Instr} (h : s.requests = r :: rest)
    (hd : decode r = .ok i) : step s = exec i { s with requests := rest } := by
  simp only [step, h, hd]

theorem step_of_decode_error {s : State} {r : Request} {rest : List Request} {why : Reject}
    (h : s.requests = r :: rest) (hd : decode r = .error why) : step s = .refused (.notAnOperation why) := by
  simp only [step, h, hd]

/-- What does not depend on the requests and is kept by every instruction is kept by a step. -/
theorem step_keeps {P : State → Prop} (hrequests : ∀ s rest, P s → P { s with requests := rest })
    (hexec : ∀ i s t, P s → exec i s = .next t → P t) {s t : State} (h : P s) (hs : step s = .next t) : P t := by
  obtain ⟨-, rfl⟩ | ⟨r, rest, i, -, -, he⟩ := step_cases hs
  · exact h
  · exact hexec i _ t (hrequests s rest h) he

theorem State.Inv.withRequests {s : State} (h : s.Inv) (rest : List Request) :
    State.Inv { s with requests := rest } :=
  { h with }

/-! ### The transmit stream stays whole frames (R28) -/

theorem State.TxWhole.of_txOut_eq {s t : State} (h : s.TxWhole) (heq : t.txOut = s.txOut) : t.TxWhole := by
  rwa [State.TxWhole, heq]

/-- A frame sent stands whole behind the frames before it. -/
theorem State.TxWhole.append_frame {s t : State} {P : List Byte} (h : s.TxWhole) (hP : P.length ≤ 65535) (id : Byte)
    (heq : t.txOut = s.txOut ++ frameBytes id P Config.EOF) : t.TxWhole := by
  obtain ⟨sent, hsent, htx⟩ := h
  refine ⟨sent ++ [⟨id, P⟩], fun p hp => ?bound, by simp [heq, htx]⟩
  obtain hold | hnew := List.mem_append.1 hp
  · exact hsent p hold
  · rw [List.mem_singleton.1 hnew]
    exact hP

theorem transmit_keeps_txWhole {s : State} (h : s.TxWhole) (id : Byte) (P : List Byte) :
    (transmit id P s).TxWhole := by
  obtain ⟨hP, heq⟩ | ⟨-, heq⟩ := transmit_cases id P s
  · exact h.append_frame hP id (by rw [heq]; rfl)
  · exact h.of_txOut_eq (by rw [heq]; rfl)

theorem exec_keeps_txWhole {i : Instr} {s t : State} (h : s.TxWhole) (he : exec i s = .next t) : t.TxWhole := by
  obtain ⟨-, c, rfl⟩ | ⟨-, id, P, rfl⟩ | ⟨-, rfl⟩ | ⟨-, rfl⟩ := exec_cases he
  · obtain ⟨htx, -, -⟩ := receive_leaves c s
    exact h.of_txOut_eq htx
  · exact transmit_keeps_txWhole h id P
  · exact h.of_txOut_eq rfl
  · exact h.of_txOut_eq rfl

/-! ### The statements -/

/-- Settles O52: no clause of the invariant speaks of the requests, and every instruction keeps it. -/
theorem stepKeepsInvariant : Obligations.StepKeepsInvariant :=
  fun _ _ => step_keeps (fun _ rest h => h.withRequests rest) fun _ _ _ => exec_keeps_inv

/-- Settles O54: of all instructions only a transmission that is not refused writes `tx_out`, and it appends one frame. -/
theorem stepKeepsTransmitStreamWhole : Obligations.StepKeepsTransmitStreamWhole :=
  fun _ _ => step_keeps (fun _ _ h => h.of_txOut_eq rfl) fun _ _ _ => exec_keeps_txWhole

/-- Settles O40: a reserved word decodes to the error that names it. -/
theorem reservedWordsAreRefused : Obligations.ReservedWordsAreRefused := by
  intro s w P rest hreq
  obtain ⟨-, -, -, -, hdata, hop⟩ := operationWordsDecode w P
  refine ⟨fun h => step_of_decode_error hreq (hop h), fun h hne => step_of_decode_error hreq (hdata h fun h0 => hne ?_)⟩
  simpa using congrArg BitVec.toNat h0

/-- Settles O47: the three cases of a step. -/
theorem stepRunsDecodedInstruction : Obligations.StepRunsDecodedInstruction :=
  ⟨fun _ _ _ _ hreq hd _ => step_of_decode_ok hreq hd, fun _ _ _ _ => step_of_decode_error, fun _ => step_idle⟩

/-- Settles O48: the word presented is the oldest request, and without it the state is the one it was presented to. -/
theorem fetchedTableWordRuns : Obligations.FetchedTableWordRuns := by
  intro s nbits w i h
  rw [decodeTableWord] at h
  cases hd : decode (tableRequest nbits w) with
  | error why => simp [hd, Except.toOption] at h
  | ok j =>
    obtain rfl : j = i := by simpa [hd, Except.toOption] using h
    exact step_of_decode_ok (s := s.withFetchWord nbits w) rfl hd

/-- Settles O50: a step takes the oldest request before it runs it, and no instruction touches the requests. -/
theorem stepTakesOneRequest : Obligations.StepTakesOneRequest := by
  intro s t h
  obtain ⟨hreq, rfl⟩ | ⟨r, rest, i, hreq, -, he⟩ := step_cases h
  · rw [hreq]; rfl
  · rw [hreq, exec_leaves_requests he]; rfl

/-- Settles O51: at power-on the buffer is empty and no frame has been sent. -/
theorem invariantsHoldAtReset : Obligations.InvariantsHoldAtReset :=
  ⟨inv_reset, [], by simp, rfl⟩

end Sys2Proof.Machine
end

section
/-! What the receiving and the transmitting instructions leave alone, and that they commute: the frame statements (O34,
O35, O37, O38). -/

namespace Sys2Proof.Machine

/-! ### Both paths at once (R58, R143) -/

/-- A transmission does the same beside any receive path. -/
theorem transmit_withTransmitSide (id : Byte) (P : List Byte) (u s : State) :
    transmit id P (withTransmitSide u s) = withTransmitSide (transmit id P u) s := by
  obtain hP | hP := Nat.lt_or_ge 65535 P.length
  · rw [transmit_tooLarge id P _ hP, transmit_tooLarge id P _ hP]; rfl
  · rw [transmit_fits id P _ hP, transmit_fits id P _ hP]; rfl

/-- Either order gives the transmit side of the transmission beside the receive path of the reception. -/
theorem receive_transmit_comm (c : List Byte) (id : Byte) (P : List Byte) (s : State) :
    receive c (transmit id P s) = transmit id P (receive c s) :=
  calc receive c (transmit id P s)
      = receive c (withTransmitSide (transmit id P s) s) := by rw [← transmit_withTransmitSide]; rfl
    _ = transmit id P (withTransmitSide s (receive c s)) := by
      rw [receive_withTransmitSide, transmit_withTransmitSide]
    _ = transmit id P (receive c s) := by rw [← receive_withTransmitSide]; rfl

theorem frameBytes_ne_nil (id : Byte) (P : List Byte) (tail : Byte) : frameBytes id P tail ≠ [] := by
  simp [frameBytes]

/-- What a transmission writes: one TXRESULT, and a frame exactly if that is 0 (R141, R206). -/
theorem transmit_writes (id : Byte) (P : List Byte) (s : State) :
    ∃ r : BitVec 1, (transmit id P s).responses = s.responses ++ [.txResult r] ∧
      s.txOut <+: (transmit id P s).txOut ∧ ((transmit id P s).txOut = s.txOut ↔ r = 1) := by
  obtain ⟨-, heq⟩ | ⟨-, heq⟩ := transmit_cases id P s
  · exact ⟨0, by simp [heq], by simp [heq], by simp [heq, frameBytes_ne_nil]⟩
  · exact ⟨1, by simp [heq], by simp [heq], by simp [heq]⟩

/-! ### The statements -/

/-- Settles O34: an instruction that receives delivers bytes, and draining writes the receive path alone. -/
theorem receivingLeavesTransmitSide : Obligations.ReceivingLeavesTransmitSide := by
  intro s t i hi he
  obtain ⟨c, hc⟩ := exec_receives hi
  obtain rfl : receive c s = t := by simpa [hc] using he
  obtain ⟨htx, hresp, hreq⟩ := receive_leaves c s
  exact ⟨htx, hresp, hreq, receive_appends c s⟩

/-- Settles O35: an instruction that transmits is one transmission. -/
theorem transmittingLeavesReceiveSide : Obligations.TransmittingLeavesReceiveSide := by
  intro s t i hi he
  obtain ⟨id, P, hP⟩ := exec_transmits hi
  obtain rfl : transmit id P s = t := by simpa [hP] using he
  obtain ⟨hbuf, hfault, hcause, hpkt⟩ := transmit_leaves id P s
  exact ⟨hbuf, hfault, hcause, hpkt, transmit_requests id P s, transmit_writes id P s⟩

/-- Settles O37: a reception and a transmission commute, whichever instructions ask for them. -/
theorem receivingAndTransmittingCommute : Obligations.ReceivingAndTransmittingCommute := by
  intro s i j hi hj
  obtain ⟨c, hc⟩ := exec_receives hi
  obtain ⟨id, P, hP⟩ := exec_transmits hj
  simp only [execAll, hc, hP, receive_transmit_comm]

/-- Settles O38: each kind of instruction appends to one output and leaves the others. -/
theorem outputsAreAppendOnly : Obligations.OutputsAreAppendOnly := by
  intro i s t he
  obtain ⟨-, c, rfl⟩ | ⟨-, id, P, rfl⟩ | ⟨-, rfl⟩ | ⟨-, rfl⟩ := exec_cases he
  · obtain ⟨htx, hresp, -⟩ := receive_leaves c s
    exact ⟨receive_appends c s, by rw [htx], by rw [hresp]⟩
  · obtain ⟨-, -, -, hpkt⟩ := transmit_leaves id P s
    obtain ⟨r, hresp, htx, -⟩ := transmit_writes id P s
    exact ⟨by rw [hpkt], htx, hresp ▸ List.prefix_append _ _⟩
  · exact ⟨List.prefix_refl _, List.prefix_refl _, List.prefix_append _ _⟩
  · exact ⟨List.prefix_refl _, List.prefix_refl _, List.prefix_refl _⟩

end Sys2Proof.Machine
end

section
/-! Chunks and whole frames received: RX_CHUNK beside the source's append-then-drain, and the frame rows (O22, O24, O25,
O26, O27). -/

namespace Sys2Proof.Machine

/-! ### The source's append-then-drain (R114) -/

theorem sourceReceive_nil {s : State} (hi : deframe s.rxbuf = .incomplete) : sourceReceive [] s = s := by
  rw [sourceReceive, List.append_nil, drain_incomplete hi]

/-- Of a chunk the source may append the first byte beforehand. -/
theorem sourceReceive_cons (d : Byte) (c : List Byte) (s : State) :
    sourceReceive (d :: c) s = sourceReceive c (bufAppend d s) := by
  rw [sourceReceive, List.append_cons]
  rfl

/-- Behind a failing frame the chunk is only kept. -/
theorem sourceReceive_err {s : State} {k : FramingCause} (h : deframe s.rxbuf = .err k) (c : List Byte) :
    sourceReceive c s = { s with rxbuf := s.rxbuf ++ c, fault := 1, cause := k.code } := by
  rw [sourceReceive, drain_err (k := k) (deframe_err_append h c)]
  rfl

/-- Behind a whole frame the chunk is received as from the frame boundary. -/
theorem sourceReceive_ok {s : State} {p : Packet} (h : deframe s.rxbuf = .ok p s.rxbuf.length) (c : List Byte) :
    sourceReceive c s = sourceReceive c { s with rxbuf := [], pktOut := s.pktOut ++ [p] } := by
  rw [sourceReceive, drain_ok (p := p) (n := s.rxbuf.length) (deframe_ok_append h c)]
  simp [sourceReceive, bufConsume, emitPkt]

/-- The source gives `u` where the block gives `t`: the same state but for the bytes `rest` of the chunk `c` that the block
has dropped, of which there are none while it runs. -/
def AgreesWithSource (c : List Byte) (t u : State) : Prop :=
  ∃ rest, rest <:+ c ∧ u = { t with rxbuf := t.rxbuf ++ rest } ∧ (t.fault = 0 → rest = [])

theorem AgreesWithSource.refl (c : List Byte) (t : State) : AgreesWithSource c t t :=
  ⟨[], List.nil_suffix, by simp, fun _ => rfl⟩

theorem AgreesWithSource.cons {c : List Byte} {t u : State} (h : AgreesWithSource c t u) (d : Byte) :
    AgreesWithSource (d :: c) t u := by
  obtain ⟨rest, hsuffix, hu, hrunning⟩ := h
  exact ⟨rest, hsuffix.trans (List.suffix_cons d c), hu, hrunning⟩

/-- Once the block is in FAULT it drops the rest of the chunk, and the source keeps it. -/
theorem agreesWithSource_of_err {s t : State} {k : FramingCause} (h : deframe s.rxbuf = .err k)
    (ht : t = raiseFramingError k s) (c : List Byte) : AgreesWithSource c t (sourceReceive c s) := by
  subst ht
  exact ⟨c, List.suffix_refl c, sourceReceive_err h c, fun h0 => absurd h0 (by simp)⟩

/-- Receiving a chunk byte by byte agrees with the source: by the three things its first byte can do. -/
theorem receive_agreesWithSource_running {s : State} (hf : s.fault = 0) (hi : deframe s.rxbuf = .incomplete)
    (c : List Byte) : AgreesWithSource c (receive c s) (sourceReceive c s) := by
  induction c generalizing s with
  | nil =>
    rw [sourceReceive_nil hi]
    exact .refl [] s
  | cons d c ih =>
    rw [receive_cons, sourceReceive_cons]
    refine AgreesWithSource.cons ?_ d
    obtain ⟨hi', heq⟩ | ⟨k, he, heq⟩ | ⟨p, hok, heq⟩ := receiveByte_cases s d hi hf
    · rw [heq]
      exact ih hf hi'
    · rw [heq, receive_fault rfl]
      exact agreesWithSource_of_err (s := bufAppend d s) he rfl c
    · have hwhole : deframe (bufAppend d s).rxbuf = .ok p (bufAppend d s).rxbuf.length := by simpa using hok
      rw [heq, sourceReceive_ok hwhole]
      exact ih hf (deframe_short _ (by simp))

/-- In FAULT the buffer holds the failing frame of the cause (R205). -/
theorem State.Inv.deframe_in_fault {s : State} (h : s.Inv) (hf : s.fault = 1) :
    ∃ k, deframe s.rxbuf = .err k ∧ s.cause = k.code := by
  obtain hc | hc := h.causeInFault hf
  · obtain ⟨hlen, h0⟩ := h.startFaultBuffer hf hc
    exact ⟨.startSentinel, (deframe_startSentinel_iff _).2 ⟨hlen.ge, h0⟩, hc⟩
  · obtain ⟨h0, hlen, htail⟩ := h.endFaultBuffer hf hc
    exact ⟨.endSentinel, (deframe_endSentinel_iff _).2 ⟨h0, hlen.ge, htail⟩, hc⟩

theorem receive_agreesWithSource {s : State} (h : s.Inv) (c : List Byte) :
    AgreesWithSource c (receive c s) (sourceReceive c s) := by
  obtain hf | hf := fault_cases s
  · exact receive_agreesWithSource_running hf (h.incompleteWhileRunning hf) c
  · obtain ⟨k, hk, hc⟩ := h.deframe_in_fault hf
    rw [receive_fault hf]
    exact agreesWithSource_of_err hk (by rw [raiseFramingError, ← hf, ← hc]) c

/-! ### A whole frame from a frame boundary (R100, R204) -/

/-- A frame whose last byte is not the end sentinel is kept in the buffer. -/
theorem receive_frameBytes_badEnd {s : State} {P : List Byte} {e : Byte} (hf : s.fault = 0) (hb : s.rxbuf = [])
    (hP : P.length ≤ 65535) (he : e ≠ Config.EOF) (id : Byte) :
    receive (frameBytes id P e) s = { s with rxbuf := frameBytes id P e, fault := 1, cause := 2 } := by
  have hlen := eq_toNat_lo8_add_hi8 hP
  have hpart : deframe (s.rxbuf ++ ([0x7E, id, lo8 P.length, hi8 P.length] ++ P)) = .incomplete := by
    rw [hb]
    exact deframe_partial hlen.le id
  have hheld : s.rxbuf ++ ([0x7E, id, lo8 P.length, hi8 P.length] ++ P) =
      [0x7E, id, lo8 P.length, hi8 P.length] ++ P := by rw [hb, List.nil_append]
  rw [← frameBytes_of_length hlen, receive_append, receive_waits hf hpart, receive_cons, receive_nil,
    receiveByte_badEnd (by exact hf) hlen hheld he, raiseFramingError_bufAppend hheld]
  rfl

/-- The parameter fields with the firmware version's bytes cut out of it (R161). -/
theorem paramPayload_eq (fw : Half) (brk mab rate : Byte) :
    paramPayload fw brk mab rate = [fw.extractLsb' 0 8, fw.extractLsb' 8 8, brk, mab, rate] := by
  rw [paramPayload, lo8_toNat_half, hi8_toNat_half]

theorem frameBytes_two_bytes (id p0 p1 tail : Byte) :
    frameBytes id [p0, p1] tail = [0x7E, id, 2, 0, p0, p1, tail] :=
  (frameBytes_of_length (lo := 2) (hi := 0) (P := [p0, p1]) rfl id tail).symm

theorem frameBytes_five_bytes (id p0 p1 p2 p3 p4 tail : Byte) :
    frameBytes id [p0, p1, p2, p3, p4] tail = [0x7E, id, 5, 0, p0, p1, p2, p3, p4, tail] :=
  (frameBytes_of_length (lo := 5) (hi := 0) (P := [p0, p1, p2, p3, p4]) rfl id tail).symm

/-! ### The frame rows, each the reception of its frame (log 3) -/

theorem exec_frame (id : Byte) (P : List Byte) (tail : Byte) (s : State) :
    exec (.frame id P tail) s = .next (receive (frameBytes id P tail) s) := rfl

theorem exec_frameParamReq (p0 p1 tail : Byte) (s : State) :
    exec (.frameParamReq p0 p1 tail) s = .next (receive (frameBytes 3 [p0, p1] tail) s) := rfl

theorem exec_frameParamResp (fw : Half) (brk mab rate tail : Byte) (s : State) :
    exec (.frameParamResp fw brk mab rate tail) s =
      .next (receive (frameBytes 3 (paramPayload fw brk mab rate) tail) s) := rfl

theorem exec_frameConfig (fw : Half) (brk mab rate tail : Byte) (s : State) :
    exec (.frameConfig fw brk mab rate tail) s =
      .next (receive (frameBytes 4 (paramPayload fw brk mab rate) tail) s) := rfl

theorem exec_frameRender (P : List Byte) (tail : Byte) (s : State) :
    exec (.frameRender P tail) s = .next (receive (frameBytes 6 P tail) s) := rfl

/-! ### The statements -/

/-- Settles O22: the source's state is the block's with the dropped bytes behind its buffer. -/
theorem chunkAgreesWithSource : Obligations.ChunkAgreesWithSource := by
  intro s c hs
  obtain ⟨rest, hsuffix, hsource, hrunning⟩ := receive_agreesWithSource hs c
  refine ⟨receive c s, exec_rxChunk c s, execAll_map_rxByte c s, ?_⟩
  rw [hsource]
  refine ⟨rfl, rfl, rfl, fun hf => ?running, fun _ => ⟨rest, hsuffix, rfl⟩⟩
  rw [hrunning hf, List.append_nil]

/-- Settles O24: a transmission that fits appends the frame, which is received as its packet. -/
theorem transmittedBytesAreReceived : Obligations.TransmittedBytesAreReceived := by
  intro r s t id P hf hb hP he
  obtain rfl : transmit id P s = t := by simpa using he
  have hsent : (transmit id P s).txOut.drop s.txOut.length = frameBytes id P Config.EOF := by
    simp [transmit_fits id P s hP]
  rw [hsent, execAll_map_rxByte, receive_frameBytes hf hb hP]

/-- Settles O25: each row receives one whole frame, by `receive_frameBytes`. -/
theorem frameRowsEmitTheirPacket : Obligations.FrameRowsEmitTheirPacket := by
  intro s hf hb
  have hemit (id : Byte) {P : List Byte} (hP : P.length ≤ 65535) :
      receive (frameBytes id P 0xE7) s = { s with pktOut := s.pktOut ++ [⟨id, P⟩] } :=
    receive_frameBytes hf hb hP id
  refine ⟨fun id P hP => ?frame, fun p0 p1 => ?req, fun fw brk mab rate => ?resp, fun fw brk mab rate => ?config,
    fun P hP => ?render⟩
  case frame => rw [exec_frame, hemit id hP]
  case req => rw [exec_frameParamReq, hemit 3 (by simp)]
  case resp => rw [exec_frameParamResp, hemit 3 (by simp), paramPayload_eq]
  case config => rw [exec_frameConfig, hemit 4 (by simp), paramPayload_eq]
  case render => rw [exec_frameRender, hemit 6 hP]

/-- Settles O26: each row receives one whole frame, by `receive_frameBytes_badEnd`; the frames of the parameter rows are
written out. -/
theorem frameRowsWithBadEndFault : Obligations.FrameRowsWithBadEndFault := by
  intro s e hf hb he
  have hfault (id : Byte) {P : List Byte} (hP : P.length ≤ 65535) :
      receive (frameBytes id P e) s = { s with rxbuf := frameBytes id P e, fault := 1, cause := 2 } :=
    receive_frameBytes_badEnd hf hb hP he id
  refine ⟨fun id P hP => ?frame, fun p0 p1 => ?req, fun fw brk mab rate => ?resp, fun fw brk mab rate => ?config,
    fun P hP => ?render⟩
  case frame => rw [exec_frame, hfault id hP]
  case req => rw [exec_frameParamReq, hfault 3 (by simp), frameBytes_two_bytes]
  case resp => rw [exec_frameParamResp, hfault 3 (by simp), paramPayload_eq, frameBytes_five_bytes]
  case config => rw [exec_frameConfig, hfault 4 (by simp), paramPayload_eq, frameBytes_five_bytes]
  case render => rw [exec_frameRender, hfault 6 hP]

/-- Settles O27: an instruction expands to one operation with the same meaning, or to its bytes received in order. -/
theorem instructionsAreTheirExpansions : Obligations.InstructionsAreTheirExpansions := by
  intro i s
  cases i with
  | rxByte | txFrame | statusRd | reset | paramReq | configure | render => exact (execAll_singleton _ s).symm
  | rxChunk | frame | frameParamReq | frameParamResp | frameConfig | frameRender =>
    exact (execAll_map_rxByte _ s).symm

end Sys2Proof.Machine
end

section
/-! The fixed constants, and the blocks of a system (O1, O57). -/

namespace Sys2Proof.Machine

/-- Settles O1: the start code makes a render payload one byte longer than its channel values. -/
theorem constantsHaveTheirValues : Obligations.ConstantsHaveTheirValues := by
  refine ⟨rfl, rfl, rfl, rfl, rfl, rfl, rfl, rfl, rfl, rfl, rfl, rfl, rfl, fun sc v => ?_⟩
  rw [length_renderPayload, Config.MAX_UNIVERSE, MAX_PAYLOAD_eq]
  omega

theorem run_cons (k : Nat) (schedule : List Nat) (y : System) :
    y.run (k :: schedule) = (y.stepBlock k).run schedule := rfl

/-- A block's step reaches that block alone. -/
theorem stepBlock_getElem? (k j : Nat) (y : System) :
    (y.stepBlock k).blocks[j]? = y.blocks[j]?.map (State.advance^[[k].count j]) := by
  obtain rfl | hne := eq_or_ne k j
  · simp [System.stepBlock]
  · simp [System.stepBlock, hne]

/-- Settles O57: by induction on the schedule; each entry is one more step of its block and of no other. -/
theorem blocksOfASystemAreIndependent : Obligations.BlocksOfASystemAreIndependent := by
  intro y schedule j
  induction schedule generalizing y with
  | nil => simp [System.run]
  | cons k schedule ih =>
    have hcount : (k :: schedule).count j = schedule.count j + [k].count j := by
      rw [← List.singleton_append, List.count_append, Nat.add_comm]
    rw [run_cons, ih, stepBlock_getElem?, Option.map_map, hcount, Function.iterate_add]

end Sys2Proof.Machine
end

section
/-! The decoder and the encoder: operation words both ways, and bytes on the wire as the frame row they stand under. -/

namespace Sys2Proof
open Machine

/-! ### Operation words (R81) -/

/-- The words that decode are those of the four operations, each the encoding of what it decodes to. -/
theorem encode_of_decodeWord_ok {w : OpWord} {P : List Byte} {i : Instr} (h : decodeWord w P = .ok i) :
    encode i = .word w P ∧ WellFormed i = true := by
  have hplain {j : Instr} (hj : withoutPayload w P j = .ok i) : P = [] ∧ j = i := by
    rw [withoutPayload] at hj
    split_ifs at hj with hP
    exact ⟨hP, by simpa using hj⟩
  have hfields := opWord_fields w
  rw [decodeWord_eq] at h
  split_ifs at h with hrx htx hstatus hreset
  · obtain ⟨rfl, rfl⟩ := hplain h
    exact ⟨by rw [encode, ← hrx, hfields], rfl⟩
  · cases h
    exact ⟨by rw [encode, ← htx, hfields], rfl⟩
  · obtain ⟨rfl, rfl⟩ := hplain h
    obtain ⟨hop, hdata⟩ := hstatus
    exact ⟨by rw [encode, ← hop, ← hdata, hfields], rfl⟩
  · obtain ⟨rfl, rfl⟩ := hplain h
    obtain ⟨hop, hdata⟩ := hreset
    exact ⟨by rw [encode, ← hop, ← hdata, hfields], rfl⟩

/-- The four operations of R80, which are presented as words. -/
inductive IsOperation : Instr → Prop
  | rxByte (d : Byte) : IsOperation (.rxByte d)
  | txFrame (id : Byte) (P : List Byte) : IsOperation (.txFrame id P)
  | statusRd : IsOperation .statusRd
  | reset : IsOperation .reset

theorem decodeWord_opWord_rxByte (d : Byte) : decodeWord (opWord 1 d) [] = .ok (.rxByte d) := by
  rw [decodeWord_rxByte (opField_opWord 1 d), dataField_opWord]

theorem decodeWord_opWord_txFrame (id : Byte) (P : List Byte) :
    decodeWord (opWord 2 id) P = .ok (.txFrame id P) := by
  rw [decodeWord_txFrame (opField_opWord 2 id), dataField_opWord]

theorem decodeWord_opWord_statusRd : decodeWord (opWord 3 0) [] = .ok .statusRd :=
  decodeWord_statusRd (opField_opWord 3 0) (dataField_opWord 3 0)

theorem decodeWord_opWord_reset : decodeWord (opWord 4 0) [] = .ok .reset :=
  decodeWord_reset (opField_opWord 4 0) (dataField_opWord 4 0)

/-- An operation is presented by a word, which decodes to it. -/
theorem IsOperation.word_reads_back {j : Instr} (h : IsOperation j) :
    ∃ w P, encode j = .word w P ∧ decode (.word w P) = .ok j := by
  cases h with
  | rxByte d => exact ⟨_, _, rfl, decodeWord_opWord_rxByte d⟩
  | txFrame id P => exact ⟨_, _, rfl, decodeWord_opWord_txFrame id P⟩
  | statusRd => exact ⟨_, _, rfl, decodeWord_opWord_statusRd⟩
  | reset => exact ⟨_, _, rfl, decodeWord_opWord_reset⟩

theorem IsOperation.expand_eq {j : Instr} (h : IsOperation j) : expand j = [j] := by
  cases h <;> rfl

/-- An expansion is made of operations (R82). -/
theorem isOperation_of_mem_expand {i j : Instr} (h : j ∈ expand i) : IsOperation j := by
  have hbytes {c : List Byte} (hj : j ∈ c.map .rxByte) : IsOperation j := by
    obtain ⟨d, -, rfl⟩ := List.mem_map.1 hj
    exact .rxByte d
  cases i with
  | rxByte d => exact List.mem_singleton.1 h ▸ .rxByte d
  | statusRd => exact List.mem_singleton.1 h ▸ .statusRd
  | reset => exact List.mem_singleton.1 h ▸ .reset
  | txFrame | paramReq | configure | render => exact List.mem_singleton.1 h ▸ .txFrame _ _
  | rxChunk | frame | frameParamReq | frameParamResp | frameConfig | frameRender => exact hbytes h

/-! ### The rows a frame's header fits (R74, R84) -/

/-- Lengths that fit the length field are the same when their two bytes are. -/
theorem lo8_hi8_inj {m n : Nat} (hm : m ≤ 65535) (hn : n ≤ 65535) (hlo : lo8 m = lo8 n) (hhi : hi8 m = hi8 n) :
    m = n := by
  rw [← toNat_u16le_lo8_hi8 m hm, hlo, hhi, toNat_u16le_lo8_hi8 n hn]

/-- The header word of the frame `(id, P)`. -/
def frameHeader (id : Byte) (P : List Byte) : Header :=
  headerWord Config.SOF id (lo8 P.length) (hi8 P.length)

theorem exactHeaderRow_fits_frameHeader {id : Byte} {P : List Byte} {L : Nat} (hP : P.length ≤ 65535)
    (hL : L ≤ 65535) (rowId : Byte) :
    (exactHeaderRow rowId L).fits (frameHeader id P) = true ↔ id = rowId ∧ P.length = L := by
  rw [frameHeader, exactHeaderRow_fits]
  constructor
  · rintro ⟨-, hid, hlo, hhi⟩
    exact ⟨hid, lo8_hi8_inj hP hL hlo hhi⟩
  · rintro ⟨rfl, rfl⟩
    exact ⟨rfl, rfl, rfl, rfl⟩

theorem frameRenderRow_fits_frameHeader (id : Byte) (P : List Byte) :
    frameRenderRow.fits (frameHeader id P) = true ↔ id = Config.ID_RENDER := by
  rw [frameHeader, frameRenderRow_fits]
  exact and_iff_right rfl

theorem frameRow_fits_frameHeader (id : Byte) (P : List Byte) : frameRow.fits (frameHeader id P) = true := by
  rw [frameHeader, frameRow_fits]
  rfl

/-- The named headers are those that fit a row more specific than FRAME. -/
theorem namedHeader_iff_fits {id : Byte} {P : List Byte} (hP : P.length ≤ 65535) :
    namedHeader id P = true ↔
      frameParamReqRow.fits (frameHeader id P) = true ∨ frameParamRespRow.fits (frameHeader id P) = true ∨
        frameConfigRow.fits (frameHeader id P) = true ∨
        frameRenderRow.fits (frameHeader id P) = true ∧ 1 ≤ P.length := by
  have hreq := exactHeaderRow_fits_frameHeader hP (L := Config.PARAM_REQ_LEN) (by decide) Config.ID_PARAM (id := id)
  have hresp := exactHeaderRow_fits_frameHeader hP (L := Config.PARAM_LEN) (by decide) Config.ID_PARAM (id := id)
  have hconfig := exactHeaderRow_fits_frameHeader hP (L := Config.PARAM_LEN) (by decide) Config.ID_CONFIG (id := id)
  rw [frameParamReqRow, frameParamRespRow, frameConfigRow, hreq, hresp, hconfig, frameRenderRow_fits_frameHeader,
    Nat.one_le_iff_ne_zero, ne_eq, List.length_eq_zero_iff]
  simp [namedHeader, and_or_left, or_assoc]

/-! ### What a whole frame decodes to -/

/-- A frame that fits no row of one header stands under the render row or under FRAME. -/
theorem decodeFrame_of_no_exactHeaderRow {id : Byte} {P : List Byte} (hP : P.length ≤ 65535)
    (hreq : ¬ frameParamReqRow.fits (frameHeader id P) = true)
    (hresp : ¬ frameParamRespRow.fits (frameHeader id P) = true)
    (hconfig : ¬ frameConfigRow.fits (frameHeader id P) = true) (tail : Byte) :
    decodeFrame Config.SOF id (lo8 P.length) (hi8 P.length) (P ++ [tail]) =
      some (if id = Config.ID_RENDER ∧ 1 ≤ P.length then .frameRender P tail else .frame id P tail) := by
  have hrender := frameRenderRow_fits_frameHeader id P
  have hframe := frameRow_fits_frameHeader id P
  have hbody : splitBody P.length (P ++ [tail]) = some (P, tail) := splitBody_eq_some.2 ⟨rfl, rfl⟩
  rw [frameHeader] at hreq hresp hconfig hrender hframe
  simp only [decodeFrame, toNat_u16le_lo8_hi8 _ hP, hbody, hrender]
  rw [if_neg hreq, if_neg hresp, if_neg hconfig, if_pos hframe]
  split_ifs <;> rfl

theorem decodeFrame_frame {id : Byte} {P : List Byte} (hP : P.length ≤ 65535) (h : namedHeader id P = false)
    (tail : Byte) :
    decodeFrame Config.SOF id (lo8 P.length) (hi8 P.length) (P ++ [tail]) = some (.frame id P tail) := by
  have hrows := mt (namedHeader_iff_fits hP).2 (Bool.eq_false_iff.1 h)
  obtain ⟨hreq, hresp, hconfig, hrender⟩ : _ ∧ _ ∧ _ ∧ _ := by simpa only [not_or] using hrows
  rw [frameRenderRow_fits_frameHeader] at hrender
  rw [decodeFrame_of_no_exactHeaderRow hP hreq hresp hconfig, if_neg hrender]

theorem decodeFrame_frameRender {P : List Byte} (hP : P.length ≤ 65535) (h : P ≠ []) (tail : Byte) :
    decodeFrame Config.SOF Config.ID_RENDER (lo8 P.length) (hi8 P.length) (P ++ [tail]) =
      some (.frameRender P tail) := by
  have hexact {rowId : Byte} {L : Nat} (hL : L ≤ 65535) (hid : Config.ID_RENDER ≠ rowId) :
      ¬ (exactHeaderRow rowId L).fits (frameHeader Config.ID_RENDER P) = true :=
    fun hfits => hid ((exactHeaderRow_fits_frameHeader hP hL rowId).1 hfits).1
  rw [decodeFrame_of_no_exactHeaderRow hP (hexact (by decide) (by decide)) (hexact (by decide) (by decide))
    (hexact (by decide) (by decide)), if_pos ⟨rfl, List.length_pos_iff.2 h⟩]

theorem decodeFrame_frameParamReq (p0 p1 tail : Byte) :
    decodeFrame 0x7E 3 2 0 [p0, p1, tail] = some (.frameParamReq p0 p1 tail) := rfl

theorem decodeFrame_frameParamResp (f0 f1 brk mab rate tail : Byte) :
    decodeFrame 0x7E 3 5 0 [f0, f1, brk, mab, rate, tail] =
      some (.frameParamResp (u16le f0 f1) brk mab rate tail) := rfl

theorem decodeFrame_frameConfig (f0 f1 brk mab rate tail : Byte) :
    decodeFrame 0x7E 4 5 0 [f0, f1, brk, mab, rate, tail] =
      some (.frameConfig (u16le f0 f1) brk mab rate tail) := rfl

/-- Bytes on the wire that are a whole frame are its row's instruction. -/
theorem decodeWire_of_decodeFrame {b0 b1 b2 b3 : Byte} {body : List Byte} {i : Instr}
    (h : decodeFrame b0 b1 b2 b3 body = some i) : decodeWire (b0 :: b1 :: b2 :: b3 :: body) = i := by
  rw [decodeWire, h, Option.getD_some]

theorem decodeWire_frame {id : Byte} {P : List Byte} (hP : P.length ≤ 65535) (h : namedHeader id P = false)
    (tail : Byte) : decodeWire (frameBytes id P tail) = .frame id P tail :=
  decodeWire_of_decodeFrame (decodeFrame_frame hP h tail)

theorem decodeWire_frameRender {P : List Byte} (hP : P.length ≤ 65535) (h : P ≠ []) (tail : Byte) :
    decodeWire (frameBytes Config.ID_RENDER P tail) = .frameRender P tail :=
  decodeWire_of_decodeFrame (decodeFrame_frameRender hP h tail)

theorem decodeWire_frameParamReq (p0 p1 tail : Byte) :
    decodeWire (frameBytes Config.ID_PARAM [p0, p1] tail) = .frameParamReq p0 p1 tail := by
  rw [frameBytes_two_bytes]
  exact decodeWire_of_decodeFrame (decodeFrame_frameParamReq p0 p1 tail)

theorem decodeWire_frameParamResp (fw : Half) (brk mab rate tail : Byte) :
    decodeWire (frameBytes Config.ID_PARAM (paramPayload fw brk mab rate) tail) =
      .frameParamResp fw brk mab rate tail := by
  rw [paramPayload, frameBytes_five_bytes]
  exact (decodeWire_of_decodeFrame (decodeFrame_frameParamResp _ _ brk mab rate tail)).trans
    (by rw [u16le_lo8_hi8_half])

theorem decodeWire_frameConfig (fw : Half) (brk mab rate tail : Byte) :
    decodeWire (frameBytes Config.ID_CONFIG (paramPayload fw brk mab rate) tail) =
      .frameConfig fw brk mab rate tail := by
  rw [paramPayload, frameBytes_five_bytes]
  exact (decodeWire_of_decodeFrame (decodeFrame_frameConfig _ _ brk mab rate tail)).trans
    (by rw [u16le_lo8_hi8_half])

/-! ### What is read from bytes on the wire presents them, and is well formed -/

/-- The body of a whole frame is its payload and one byte more, and its header has the payload's length. -/
theorem frame_of_splitBody {b0 b1 b2 b3 tail : Byte} {body P : List Byte} (h0 : b0 = Config.SOF)
    (h : splitBody (u16le b2 b3).toNat body = some (P, tail)) :
    P.length ≤ 65535 ∧ frameBytes b1 P tail = b0 :: b1 :: b2 :: b3 :: body ∧
      frameHeader b1 P = headerWord b0 b1 b2 b3 := by
  obtain ⟨rfl, hlen⟩ := splitBody_eq_some.1 h
  refine ⟨hlen.trans_le (toNat_u16le_le b2 b3), ?_, ?_⟩
  · rw [frameBytes, hlen, lo8_u16le, hi8_u16le, h0]
    rfl
  · rw [frameHeader, hlen, lo8_u16le, hi8_u16le, h0]

theorem payloadFits_iff (P : List Byte) : payloadFits P = true ↔ P.length ≤ 65535 :=
  decide_eq_true_iff

theorem wellFormed_frame_iff (id : Byte) (P : List Byte) (tail : Byte) :
    WellFormed (.frame id P tail) = true ↔ P.length ≤ 65535 ∧ namedHeader id P = false := by
  rw [WellFormed, Bool.and_eq_true, payloadFits_iff, Bool.not_eq_true']

theorem wellFormed_frameRender_iff (P : List Byte) (tail : Byte) :
    WellFormed (.frameRender P tail) = true ↔ P.length ≤ 65535 ∧ P ≠ [] := by
  rw [WellFormed, Bool.and_eq_true, payloadFits_iff, Bool.not_eq_true', List.isEmpty_eq_false_iff]

theorem frameBytes_paramPayload_u16le (id f0 f1 brk mab rate tail : Byte) :
    frameBytes id (paramPayload (u16le f0 f1) brk mab rate) tail = [0x7E, id, 5, 0, f0, f1, brk, mab, rate, tail] := by
  rw [paramPayload, lo8_u16le, hi8_u16le, frameBytes_five_bytes]

theorem encode_of_decodeFrame_eq_some {b0 b1 b2 b3 : Byte} {body : List Byte} {i : Instr}
    (h : decodeFrame b0 b1 b2 b3 body = some i) :
    encode i = .wire (b0 :: b1 :: b2 :: b3 :: body) ∧ WellFormed i = true := by
  simp only [decodeFrame] at h
  split_ifs at h with hreq hresp hconfig hrender hframe
  · obtain ⟨rfl, rfl, rfl, rfl⟩ := (frameParamReqRow_fits _ _ _ _).1 hreq
    split at h
    · cases h
      exact ⟨congrArg _ (frameBytes_two_bytes _ _ _ _), rfl⟩
    · cases h
  · obtain ⟨rfl, rfl, rfl, rfl⟩ := (frameParamRespRow_fits _ _ _ _).1 hresp
    split at h
    · cases h
      exact ⟨congrArg _ (frameBytes_paramPayload_u16le _ _ _ _ _ _ _), rfl⟩
    · cases h
  · obtain ⟨rfl, rfl, rfl, rfl⟩ := (frameConfigRow_fits _ _ _ _).1 hconfig
    split at h
    · cases h
      exact ⟨congrArg _ (frameBytes_paramPayload_u16le _ _ _ _ _ _ _), rfl⟩
    · cases h
  · obtain ⟨hfits, hL⟩ := hrender
    obtain ⟨h0, rfl⟩ := (frameRenderRow_fits _ _ _ _).1 hfits
    obtain ⟨⟨P, tail⟩, hsplit, rfl⟩ := Option.map_eq_some_iff.1 h
    obtain ⟨hP, hbytes, -⟩ := frame_of_splitBody (b1 := 6) h0 hsplit
    obtain ⟨-, hlen⟩ := splitBody_eq_some.1 hsplit
    have hne : P ≠ [] := List.length_pos_iff.1 (hlen ▸ hL)
    exact ⟨congrArg _ hbytes, (wellFormed_frameRender_iff P tail).2 ⟨hP, hne⟩⟩
  · obtain ⟨⟨P, tail⟩, hsplit, rfl⟩ := Option.map_eq_some_iff.1 h
    obtain ⟨hP, hbytes, hheader⟩ := frame_of_splitBody (b1 := b1) ((frameRow_fits _ _ _ _).1 hframe) hsplit
    obtain ⟨-, hlen⟩ := splitBody_eq_some.1 hsplit
    have hplain : ¬ namedHeader b1 P = true := by
      rw [namedHeader_iff_fits hP, hheader, hlen]
      exact not_or.2 ⟨hreq, not_or.2 ⟨hresp, not_or.2 ⟨hconfig, hrender⟩⟩⟩
    exact ⟨congrArg _ hbytes, (wellFormed_frame_iff b1 P tail).2 ⟨hP, Bool.eq_false_iff.2 hplain⟩⟩

/-- Bytes on the wire are read as the one frame they are, or as the chunk of them. -/
theorem decodeWire_cases (bytes : List Byte) :
    decodeWire bytes = .rxChunk bytes ∨
      encode (decodeWire bytes) = .wire bytes ∧ WellFormed (decodeWire bytes) = true := by
  match bytes with
  | [] | [_] | [_, _] | [_, _, _] => exact .inl rfl
  | b0 :: b1 :: b2 :: b3 :: body =>
    rw [decodeWire]
    cases h : decodeFrame b0 b1 b2 b3 body with
    | none => exact .inl rfl
    | some i => exact .inr (encode_of_decodeFrame_eq_some h)

/-- An instruction presented by bytes on the wire receives them. -/
theorem exec_of_encode_wire {i : Instr} {bytes : List Byte} (h : encode i = .wire bytes) (s : State) :
    exec i s = .next (receive bytes s) := by
  cases i with
  | rxByte | txFrame | statusRd | reset | rxChunk | paramReq | configure | render => cases h
  | frame | frameParamReq | frameParamResp | frameConfig | frameRender => cases h; rfl

end Sys2Proof
end

section
/-! Script lines: the line that presents a pseudo-operation is read back, piece by piece, and every line that is read gives
a well-formed instruction. -/

namespace Sys2Proof
open Machine

/-! ### The pieces of a line (R83) -/

theorem flushPiece_of_ne_nil {piece : List Char} (h : piece ≠ []) (ts : List Token) :
    flushPiece piece ts = .text piece :: ts :=
  if_neg h

theorem lexFrom_end {piece : List Char} (h : piece ≠ []) : lexFrom piece [] = [.text piece] :=
  flushPiece_of_ne_nil h []

theorem lexFrom_space (piece rest : List Char) : lexFrom piece (' ' :: rest) = flushPiece piece (lexFrom [] rest) := by
  simp [lexFrom]

theorem lexFrom_comma (piece rest : List Char) :
    lexFrom piece (',' :: rest) = flushPiece piece (.comma :: lexFrom [] rest) := by
  simp [lexFrom]

theorem lexFrom_openBracket (rest : List Char) : lexFrom [] ('[' :: rest) = .openBracket :: lexFrom [] rest := by
  simp [lexFrom, flushPiece]

theorem lexFrom_closeBracket (piece rest : List Char) :
    lexFrom piece (']' :: rest) = flushPiece piece (.closeBracket :: lexFrom [] rest) := by
  simp [lexFrom]

theorem lexFrom_byteHex (piece : List Char) (b : Byte) (rest : List Char) :
    lexFrom piece (byteHex b ++ rest) = lexFrom (piece ++ byteHex b) rest :=
  lexFrom_piece _ (byteHex_pieceChar b) piece rest

theorem kwRxChunk_pieceChar : ∀ c ∈ kwRxChunk, pieceChar c = true := List.all_eq_true.1 rfl

theorem kwConfigure_pieceChar : ∀ c ∈ kwConfigure, pieceChar c = true := List.all_eq_true.1 rfl

theorem kwRender_pieceChar : ∀ c ∈ kwRender, pieceChar c = true := List.all_eq_true.1 rfl

/-- The `0x` form of a number is one piece. -/
theorem lexFrom_0x {digits : List Char} (h : ∀ c ∈ digits, pieceChar c = true) (rest : List Char) :
    lexFrom [] ('0' :: 'x' :: digits ++ rest) = lexFrom ('0' :: 'x' :: digits) rest := by
  have h0x : ∀ c ∈ '0' :: 'x' :: digits, pieceChar c = true :=
    List.forall_mem_cons.2 ⟨rfl, List.forall_mem_cons.2 ⟨rfl, h⟩⟩
  exact lexFrom_piece _ h0x [] rest

theorem halfHex_pieceChar (h : Half) : ∀ c ∈ halfHex h, pieceChar c = true := fun c hc =>
  (List.mem_append.1 hc).elim (byteHex_pieceChar _ c) (byteHex_pieceChar _ c)

/-- `, 0xAA` ends the piece before it. -/
theorem lexFrom_nextByteText (piece : List Char) (b : Byte) (rest : List Char) :
    lexFrom piece (nextByteText b ++ rest) =
      flushPiece piece (.comma :: lexFrom ('0' :: 'x' :: byteHex b) rest) := by
  have hspace : lexFrom [] (' ' :: '0' :: 'x' :: byteHex b ++ rest) = lexFrom ('0' :: 'x' :: byteHex b) rest := by
    rw [List.cons_append, lexFrom_space, lexFrom_0x (byteHex_pieceChar b)]
    rfl
  show lexFrom piece (',' :: (' ' :: '0' :: 'x' :: byteHex b ++ rest)) = _
  rw [lexFrom_comma, hspace]

/-- The tokens of the bytes of a sequence, each in its two hex digits. -/
def byteTokens (bs : List Byte) : List Token := bs.map fun b => .text (byteHex b)

/-- Bytes behind a piece are a token each, if what comes after them ends the last piece. -/
theorem lexFrom_spacedBytes {after : List Char} {ts : List Token}
    (hafter : ∀ piece ≠ [], lexFrom piece after = .text piece :: ts) {piece : List Char} (hp : piece ≠ [])
    (bs : List Byte) : lexFrom piece (spacedBytes bs ++ after) = .text piece :: (byteTokens bs ++ ts) := by
  induction bs generalizing piece with
  | nil => exact hafter piece hp
  | cons b bs ih =>
    have hcons : spacedBytes (b :: bs) ++ after = ' ' :: (byteHex b ++ (spacedBytes bs ++ after)) := by
      simp [spacedBytes]
    rw [hcons, lexFrom_space, flushPiece_of_ne_nil hp, lexFrom_byteHex, List.nil_append, ih (byteHex_ne_nil b)]
    rfl

/-- The bracketed form of a byte sequence, and the line after it. -/
theorem lexFrom_bracketText (bs : List Byte) (rest : List Char) :
    lexFrom [] (bracketText bs ++ rest) =
      .openBracket :: (byteTokens bs ++ .closeBracket :: lexFrom [] rest) := by
  have hclose : ∀ piece ≠ [], lexFrom piece (']' :: rest) = .text piece :: (.closeBracket :: lexFrom [] rest) :=
    fun piece hp => by rw [lexFrom_closeBracket, flushPiece_of_ne_nil hp]
  have hopen : bracketText bs ++ rest = '[' :: ((spacedBytes bs).drop 1 ++ ']' :: rest) := by simp [bracketText]
  rw [hopen, lexFrom_openBracket]
  cases bs with
  | nil => exact congrArg _ (lexFrom_closeBracket [] rest)
  | cons b bs =>
    have hcons : (spacedBytes (b :: bs)).drop 1 ++ ']' :: rest = byteHex b ++ (spacedBytes bs ++ ']' :: rest) := by
      simp [spacedBytes]
    rw [hcons, lexFrom_byteHex, List.nil_append, lexFrom_spacedBytes hclose (byteHex_ne_nil b)]
    rfl

/-- A mnemonic with a space behind it. -/
theorem lexFrom_keyword {kw : List Char} (hkw : ∀ c ∈ kw, pieceChar c = true) (hne : kw ≠ []) (rest : List Char) :
    lexFrom [] (kw ++ ' ' :: rest) = .text kw :: lexFrom [] rest := by
  rw [lexFrom_piece kw hkw, List.nil_append, lexFrom_space, flushPiece_of_ne_nil hne]

/-! ### The operands read back -/

theorem chunkBytes_byteTokens (bs : List Byte) : chunkBytes (byteTokens bs) = some bs := by
  induction bs with
  | nil => rfl
  | cons b bs ih =>
    have hcons : byteTokens (b :: bs) = .text (byteHex b) :: byteTokens bs := rfl
    rw [hcons, chunkBytes, byteOperand_byteHex, ih]
    rfl

theorem bracketBody_byteTokens (bs : List Byte) (ts : List Token) :
    bracketBody (byteTokens bs ++ .closeBracket :: ts) = some (bs, ts) := by
  induction bs with
  | nil => rfl
  | cons b bs ih =>
    have hcons : byteTokens (b :: bs) ++ .closeBracket :: ts =
        .text (byteHex b) :: (byteTokens bs ++ .closeBracket :: ts) := rfl
    rw [hcons, bracketBody, byteRun_byteHex, ih]
    rfl

theorem parseRxChunk_byteTokens (c : List Byte) : parseRxChunk (byteTokens c) = some (.rxChunk c) := by
  have hchunk : parseRxChunk (byteTokens c) = (chunkBytes (byteTokens c)).map .rxChunk := by cases c <;> rfl
  rw [hchunk, chunkBytes_byteTokens]
  rfl

theorem parseRender_byteTokens (v : List Byte) (sc : Byte) :
    parseRender (.openBracket :: (byteTokens v ++ [.closeBracket, .comma, .text ('0' :: 'x' :: byteHex sc)])) =
      some (.render v sc) := by
  simp only [parseRender, bracketBody_byteTokens, byteOperand_0x]
  rfl

theorem parseConfigure_0x (fw : Half) (brk mab rate : Byte) :
    parseConfigure [.text ('0' :: 'x' :: halfHex fw), .comma, .text ('0' :: 'x' :: byteHex brk), .comma,
      .text ('0' :: 'x' :: byteHex mab), .comma, .text ('0' :: 'x' :: byteHex rate)] =
      some (.configure fw brk mab rate) := by
  simp only [parseConfigure, numberOperand_half, numberOperand_byte]
  rfl

/-! ### The lines of the pseudo-operations read back -/

theorem decodeLine_of_parseTokens {text : List Char} {i : Instr} (h : parseTokens (lexFrom [] text) = some i) :
    decodeLine text = .ok i := by
  rw [decodeLine, h]

theorem decodeLine_chunkLine (c : List Byte) : decodeLine (chunkLine c) = .ok (.rxChunk c) := by
  have hlex : lexFrom [] (chunkLine c) = .text kwRxChunk :: byteTokens c := by
    have hspaced := lexFrom_spacedBytes (after := []) (fun _ => lexFrom_end) (piece := kwRxChunk) (by decide) c
    rw [List.append_nil, List.append_nil] at hspaced
    rw [chunkLine, lexFrom_piece kwRxChunk kwRxChunk_pieceChar, List.nil_append, hspaced]
  exact decodeLine_of_parseTokens (hlex ▸ parseRxChunk_byteTokens c)

theorem decodeLine_paramReq : decodeLine kwParamReq = .ok .paramReq := by decide

theorem decodeLine_configureLine (fw : Half) (brk mab rate : Byte) :
    decodeLine (configureLine fw brk mab rate) = .ok (.configure fw brk mab rate) := by
  have hline : configureLine fw brk mab rate = kwConfigure ++ ' ' :: ('0' :: 'x' :: halfHex fw ++
      (nextByteText brk ++ (nextByteText mab ++ (nextByteText rate ++ [])))) := by
    simp [configureLine]
  have hlex : lexFrom [] (configureLine fw brk mab rate) = .text kwConfigure :: [.text ('0' :: 'x' :: halfHex fw),
      .comma, .text ('0' :: 'x' :: byteHex brk), .comma, .text ('0' :: 'x' :: byteHex mab), .comma,
      .text ('0' :: 'x' :: byteHex rate)] := by
    rw [hline, lexFrom_keyword kwConfigure_pieceChar (by decide), lexFrom_0x (halfHex_pieceChar fw), lexFrom_nextByteText,
      lexFrom_nextByteText, lexFrom_nextByteText]
    rfl
  exact decodeLine_of_parseTokens (hlex ▸ parseConfigure_0x fw brk mab rate)

theorem decodeLine_renderLine (v : List Byte) (sc : Byte) : decodeLine (renderLine v sc) = .ok (.render v sc) := by
  have hline : renderLine v sc = kwRender ++ ' ' :: (bracketText v ++ (nextByteText sc ++ [])) := by
    simp [renderLine]
  have hlex : lexFrom [] (renderLine v sc) = .text kwRender ::
      (.openBracket :: (byteTokens v ++ [.closeBracket, .comma, .text ('0' :: 'x' :: byteHex sc)])) := by
    rw [hline, lexFrom_keyword kwRender_pieceChar (by decide), lexFrom_bracketText, lexFrom_nextByteText]
    rfl
  exact decodeLine_of_parseTokens (hlex ▸ parseRender_byteTokens v sc)

/-! ### A line gives a well-formed instruction -/

theorem wellFormed_of_map_eq_some {α : Type} {f : α → Instr} (hf : ∀ a, WellFormed (f a) = true) {o : Option α}
    {i : Instr} (h : o.map f = some i) : WellFormed i = true := by
  obtain ⟨a, -, rfl⟩ := Option.map_eq_some_iff.1 h
  exact hf a

theorem wellFormed_of_bind_eq_some {α : Type} {f : α → Option Instr}
    (hf : ∀ a i, f a = some i → WellFormed i = true) {o : Option α} {i : Instr} (h : o.bind f = some i) :
    WellFormed i = true := by
  obtain ⟨a, -, ha⟩ := Option.bind_eq_some_iff.1 h
  exact hf a i ha

theorem parseRxByte_wellFormed {ts : List Token} {i : Instr} (h : parseRxByte ts = some i) : WellFormed i = true := by
  unfold parseRxByte at h
  split at h
  · exact wellFormed_of_map_eq_some (fun _ => rfl) h
  · cases h

theorem parseTxFrame_wellFormed {ts : List Token} {i : Instr} (h : parseTxFrame ts = some i) :
    WellFormed i = true := by
  unfold parseTxFrame at h
  split at h
  · exact wellFormed_of_bind_eq_some (fun _ _ => wellFormed_of_map_eq_some fun _ => rfl) h
  · cases h

theorem parseRxChunk_wellFormed {ts : List Token} {i : Instr} (h : parseRxChunk ts = some i) :
    WellFormed i = true := by
  unfold parseRxChunk at h
  split at h
  · cases h; rfl
  · exact wellFormed_of_map_eq_some (fun _ => rfl) h

theorem parseConfigure_wellFormed {ts : List Token} {i : Instr} (h : parseConfigure ts = some i) :
    WellFormed i = true := by
  unfold parseConfigure at h
  split at h
  · exact wellFormed_of_bind_eq_some (fun _ _ => wellFormed_of_bind_eq_some fun _ _ =>
      wellFormed_of_bind_eq_some fun _ _ => wellFormed_of_map_eq_some fun _ => rfl) h
  · cases h

theorem parseRender_wellFormed {ts : List Token} {i : Instr} (h : parseRender ts = some i) : WellFormed i = true := by
  unfold parseRender at h
  split at h
  · split at h
    · cases h; rfl
    · exact wellFormed_of_map_eq_some (fun _ => rfl) h
    · cases h
  · cases h

/-- The mnemonics are those of operations and pseudo-operations, all of which are well formed whatever their operands. -/
theorem parseTokens_wellFormed {ts : List Token} {i : Instr} (h : parseTokens ts = some i) : WellFormed i = true := by
  unfold parseTokens at h
  split at h
  · split_ifs at h
    · exact parseRxByte_wellFormed h
    · exact parseTxFrame_wellFormed h
    · cases h; rfl
    · cases h; rfl
    · exact parseRxChunk_wellFormed h
    · cases h; rfl
    · exact parseConfigure_wellFormed h
    · exact parseRender_wellFormed h
  · cases h

theorem decodeLine_wellFormed {text : List Char} {i : Instr} (h : decodeLine text = .ok i) :
    WellFormed i = true := by
  rw [decodeLine] at h
  cases hp : parseTokens (lexFrom [] text) with
  | none => simp [hp] at h
  | some j =>
    obtain rfl : j = i := by simpa [hp] using h
    exact parseTokens_wellFormed hp

end Sys2Proof
end

section
/-! Decoder and encoder agree: the statements about them (O41, O42, O43, O44, O45, O46). -/

namespace Sys2Proof
open Machine

/-- Every well-formed instruction is read back: a word by its fields, a line by its pieces, a frame by its header. -/
theorem decode_encode {i : Instr} (h : WellFormed i = true) : decode (encode i) = .ok i := by
  cases i with
  | rxByte d => exact decodeWord_opWord_rxByte d
  | txFrame id P => exact decodeWord_opWord_txFrame id P
  | statusRd => exact decodeWord_opWord_statusRd
  | reset => exact decodeWord_opWord_reset
  | rxChunk c => exact decodeLine_chunkLine c
  | paramReq => exact decodeLine_paramReq
  | configure fw brk mab rate => exact decodeLine_configureLine fw brk mab rate
  | render v sc => exact decodeLine_renderLine v sc
  | frame id P tail =>
    obtain ⟨hP, hplain⟩ := (wellFormed_frame_iff id P tail).1 h
    exact congrArg _ (decodeWire_frame hP hplain tail)
  | frameParamReq p0 p1 tail => exact congrArg _ (decodeWire_frameParamReq p0 p1 tail)
  | frameParamResp fw brk mab rate tail => exact congrArg _ (decodeWire_frameParamResp fw brk mab rate tail)
  | frameConfig fw brk mab rate tail => exact congrArg _ (decodeWire_frameConfig fw brk mab rate tail)
  | frameRender P tail =>
    obtain ⟨hP, hne⟩ := (wellFormed_frameRender_iff P tail).1 h
    exact congrArg _ (decodeWire_frameRender hP hne tail)

/-- Settles O42: one case a constructor. -/
theorem decodeEncodeRoundTrip : Obligations.DecodeEncodeRoundTrip :=
  fun _ => decode_encode

/-- Settles O43: a word that decodes has no other reading, and bytes that are not read as a chunk are one whole frame. -/
theorem encodeDecodeRoundTrip : Obligations.EncodeDecodeRoundTrip := by
  refine ⟨fun w P i h => (encode_of_decodeWord_ok h).1, fun bytes i h hchunk => ?wire⟩
  obtain rfl : decodeWire bytes = i := by simpa [decode] using h
  obtain heq | ⟨henc, -⟩ := decodeWire_cases bytes
  · exact absurd heq (hchunk bytes)
  · exact henc

/-- Settles O44: by the form of the request. -/
theorem decodedInstructionsAreWellFormed : Obligations.DecodedInstructionsAreWellFormed := by
  intro r i h
  cases r with
  | word w P => exact (encode_of_decodeWord_ok h).2
  | line text => exact decodeLine_wellFormed h
  | wire bytes =>
    obtain rfl : decodeWire bytes = i := by simpa [decode] using h
    obtain heq | ⟨-, hwf⟩ := decodeWire_cases bytes
    · rw [heq]; rfl
    · exact hwf

/-- Settles O45: the instruction is the chunk of the bytes, or is presented by them and receives them. -/
theorem wireBytesAreReceivedUnderAnyRow : Obligations.WireBytesAreReceivedUnderAnyRow := by
  refine fun bytes s => ⟨decodeWire bytes, rfl, ?_⟩
  obtain heq | ⟨henc, -⟩ := decodeWire_cases bytes
  · rw [heq]
  · exact exec_of_encode_wire henc s

/-- Settles O46: expansions are made of the four operations of R80. -/
theorem expansionsAreOperationWords : Obligations.ExpansionsAreOperationWords := by
  intro i j h
  have hop := isOperation_of_mem_expand h
  exact ⟨hop.word_reads_back, hop.expand_eq⟩

/-- Settles O41: the decoder evaluated on each form, of which the frames are those that encode lays out. -/
theorem writtenOutEncodingsDecode : Obligations.WrittenOutEncodingsDecode := by
  refine ⟨decodeWord_opWord_rxByte 0x7E, decodeWord_opWord_txFrame 3 [0, 0], decodeWord_opWord_statusRd,
    decodeWord_opWord_reset, decode_encode (i := .frame 0x10 [0xAA] 0xE7) rfl,
    decode_encode (i := .frameParamReq 0 0 0xE7) rfl, decode_encode (i := .frameParamResp 0x1234 9 1 40 0xE7) rfl,
    decode_encode (i := .frameConfig 0x1234 9 1 40 0xE7) rfl,
    decode_encode (i := .frameRender [0xCC, 0xFF, 0x80] 0xE7) rfl, decode_encode (i := .frame 6 [] 0xE7) rfl,
    ?chunk, ?configure, ?render, decodeLine_paramReq⟩
  case chunk => decide
  case configure => decide
  case render => decide

end Sys2Proof
end
